-- ==== Sys2Proof/Word.lean ====
section
/-! DEFINITION. The widths of R57: a payload byte, a 16-bit value (table entry, configuration value, working register,
DATA), a 32-bit command word. Everything is unsigned (R11, R166). -/

namespace Sys2Proof

/-- A payload element or output byte (u8, R57). -/
abbrev Byte := BitVec 8

/-- A 16-bit value: table entry, configuration value, working register, DATA (u16, R2, R57). -/
abbrev Word := BitVec 16

/-- A command word or packed response word (u32, R57, R70, R81). -/
abbrev CmdWord := BitVec 32

end Sys2Proof
end

