-- ==== Sys2Proof/Config.lean ====
section
/-! DEFINITION. What an implementation fixes (R7 to R9), the shape of one CRC variant's parameter set (R100), and the
values the spec leaves unspecified, as constants without a body. -/

namespace Sys2Proof

/-- The byte order tag BORD (R26). -/
inductive ByteOrder
  | none
  | big
  | little
  deriving DecidableEq, Repr, Inhabited

/-- A Configuration: the six fields of R100, written together by one command (R30). -/
structure Configuration where
  poly   : Word
  init   : Word
  refin  : Bool
  refout : Bool
  xorout : Word
  bord   : ByteOrder
  deriving DecidableEq, Repr, Inhabited

/-- A lookup table: 256 entries of 16 bits, indexed by a byte value (R6, R27). -/
abbrev Table := Vector Word 256

/-- The open parameters of an implementation: NUM_SLOTS (R7), NUM_REQUESTERS (R8) and MAX_PAYLOAD
(R9, `none` is UNBOUNDED). -/
structure Config where
  numSlots      : Nat
  numRequesters : Nat
  maxPayload    : Option Nat
  deriving DecidableEq, Repr

/-- The bounds of R7 and R8 on the parameters. -/
abbrev Config.wf (c : Config) : Prop :=
  1 ≤ c.numSlots ∧ c.numSlots ≤ 16 ∧ 1 ≤ c.numRequesters

/-- DESIGN CHOICE (log 1): the parameters of the machine that `State.reset` describes: every SLOT value names a slot,
one requester, and the payload bound that conforms to the source (UNBOUNDED, R9). -/
def Config.reference : Config := { numSlots := 16, numRequesters := 1, maxPayload := none }

/-- Free value (log 4): the configuration fields of a slot whose contents the spec calls unspecified (R37, R105, R260). -/
opaque Config.freeConfiguration : Nat → Configuration

/-- Free value (log 4): table contents the spec calls unspecified (R27, R37, R105, R260). -/
opaque Config.freeTable : Nat → Table

/-- Free value (log 7): which of several pending requesters is served when the arbitration order names none of them
(R60, R231). -/
opaque Config.freeChoice : Nat → Nat

end Sys2Proof
end

