-- ==== Sys2Proof/Syntax.lean ====
section
/-! DEFINITION. Requests (R70) and the eight commands (R76), one constructor per row of the opcode table. -/

namespace Sys2Proof

/-- The four entries of the preset ROM, in the order of their IDs (R79, R103). -/
inductive PresetId
  | xmodem
  | kermit
  | ccittFalse
  | modbus
  deriving DecidableEq, Repr

/-- A request: a command word and a byte payload whose length the transaction carries (R70). -/
structure Request where
  cmd     : CmdWord
  payload : List Byte
  deriving DecidableEq, Repr

/-- The commands with their operands (R75, R76). `k` is the SLOT field. -/
inductive Instr
  /-- R101: load a caller-assembled Configuration; the operands are assembled as R78 says. -/
  | construct (k : BitVec 4) (poly : Word) (bord : ByteOrder) (refout refin : Bool) (init xorout : Word)
  /-- R104: load one of the four predefined Configurations. -/
  | preset (k : BitVec 4) (id : PresetId)
  /-- R164: the CRC of a whole byte sequence. -/
  | checksum (k : BitVec 4) (data : List Byte)
  /-- R165: feed more bytes into the CRC value `prev`. -/
  | update (k : BitVec 4) (prev : Word) (data : List Byte)
  /-- R201: serialize `value` in the slot's byte order. -/
  | toBytes (k : BitVec 4) (value : Word)
  /-- R139: build the table now. -/
  | buildTable (k : BitVec 4)
  /-- R140: read table entry `index`. -/
  | readTable (k : BitVec 4) (index : Byte)
  /-- R105: end the engine in the slot. -/
  | release (k : BitVec 4)
  deriving DecidableEq, Repr

/-- The SLOT field a command acts on (R72). -/
def Instr.slot : Instr → BitVec 4
  | .construct k _ _ _ _ _ _ => k
  | .preset k _ => k
  | .checksum k _ => k
  | .update k _ _ => k
  | .toBytes k _ => k
  | .buildTable k => k
  | .readTable k _ => k
  | .release k => k

/-- The opcode of a command (R76). -/
def Instr.opcode : Instr → BitVec 4
  | .construct _ _ _ _ _ _ _ => 0x1#4
  | .preset _ _ => 0x2#4
  | .checksum _ _ => 0x3#4
  | .update _ _ _ => 0x4#4
  | .toBytes _ _ => 0x5#4
  | .buildTable _ => 0x6#4
  | .readTable _ _ => 0x7#4
  | .release _ => 0x8#4

end Sys2Proof
end

