-- ==== Sys2Proof/WellFormed.lean ====
section
/-! DEFINITION. The one check on a command that its types do not make: the slot index is below NUM_SLOTS (R72, R82).
BORD code 3, reserved bits and payload lengths cannot be written as an `Instr`; the decoder rejects them. -/

namespace Sys2Proof

/-- A command is well formed on a block of `numSlots` slots when its SLOT field names one of them (R72). -/
def Instr.wf (numSlots : Nat) (i : Instr) : Bool := decide (i.slot.toNat < numSlots)

end Sys2Proof
end

