-- ==== Sys2Proof/Decode.lean ====
section
/-! DEFINITION. The decoder and the encoder of 30_encoding.md: field extraction (R71 to R75), operand assembly
(R78, R79), the decode check `legal` (R82), decoding of any request with the reason of a rejection by name, encoding of
a command, and the request that a word of the opcode table stands for. -/

namespace Sys2Proof

/-- OPC = CMD[3:0] (R71). -/
def opcOf (cmd : CmdWord) : BitVec 4 := cmd.extractLsb' 0 4

/-- SLOT = CMD[7:4] (R72). -/
def slotOf (cmd : CmdWord) : BitVec 4 := cmd.extractLsb' 4 4

/-- ARG8 = CMD[15:8] (R73). -/
def arg8Of (cmd : CmdWord) : Byte := cmd.extractLsb' 8 8

/-- IMM16 = CMD[31:16] (R74). -/
def imm16Of (cmd : CmdWord) : Word := cmd.extractLsb' 16 16

/-- `{hi, lo}`, the high part first (R11): how CONSTRUCT assembles INIT and XOROUT (R55, R78). -/
def word16 (hi lo : Byte) : Word := hi ++ lo

/-- v[15:8] (R10). -/
def highByte (v : Word) : Byte := v.extractLsb' 8 8

/-- v[7:0] (R10). -/
def lowByte (v : Word) : Byte := v.extractLsb' 0 8

/-- BORD code: 0 NONE, 1 BIG, 2 LITTLE; code 3 is illegal (R26, R78). -/
def bordOf (code : BitVec 2) : Option ByteOrder :=
  match code.toNat with
  | 0 => some .none
  | 1 => some .big
  | 2 => some .little
  | _ => Option.none

/-- The BORD code of a byte order (R78). -/
def bordCode : ByteOrder → BitVec 2
  | .none => 0#2
  | .big => 1#2
  | .little => 2#2

/-- Preset ID: every 2-bit value is one (R79). -/
def presetOf (code : BitVec 2) : PresetId :=
  match code.toNat with
  | 0 => .xmodem
  | 1 => .kermit
  | 2 => .ccittFalse
  | _ => .modbus

/-- The ID of a preset (R79). -/
def presetCode : PresetId → BitVec 2
  | .xmodem => 0#2
  | .kermit => 1#2
  | .ccittFalse => 2#2
  | .modbus => 3#2

/-- `legal(CMD, P)`, the decode check, line by line from R82. -/
def legal (numSlots : Nat) (r : Request) : Bool :=
  let cmd := r.cmd
  decide ((slotOf cmd).toNat < numSlots) &&
  match (opcOf cmd).toNat with
  | 0x1 => cmd.extractLsb' 12 4 == 0#4 && cmd.extractLsb' 10 2 != 3#2 && r.payload.length == 4
  | 0x2 => cmd.extractLsb' 10 6 == 0#6 && imm16Of cmd == 0#16 && r.payload.length == 0
  | 0x3 => arg8Of cmd == 0#8 && imm16Of cmd == 0#16
  | 0x4 => arg8Of cmd == 0#8
  | 0x5 => arg8Of cmd == 0#8 && r.payload.length == 0
  | 0x6 => arg8Of cmd == 0#8 && imm16Of cmd == 0#16 && r.payload.length == 0
  | 0x7 => imm16Of cmd == 0#16 && r.payload.length == 0
  | 0x8 => arg8Of cmd == 0#8 && imm16Of cmd == 0#16 && r.payload.length == 0
  | _ => false

/-- Why a request is illegal (R222, one name per case of its list). Every one of them is answered ERR_ILLEGAL,
and which reason is named is the model's own (DESIGN CHOICE, log 19). -/
inductive DecodeError
  /-- OPC 0x0 or 0x9 to 0xF (R77). -/
  | reservedOpcode
  /-- SLOT >= NUM_SLOTS (R72). -/
  | slotOutOfRange
  /-- A non-zero bit in a field the opcode must have at 0 (R73, R74). -/
  | reservedField
  /-- BORD code 3 in CONSTRUCT (R78). -/
  | byteOrderCode
  /-- A CONSTRUCT payload whose length is not 4, or a payload for a command that takes none (R82). -/
  | payloadLength
  deriving DecidableEq, Repr

/-- CONSTRUCT's operands (R78). -/
def decodeConstruct (r : Request) : Except DecodeError Instr :=
  if r.cmd.extractLsb' 12 4 ≠ 0#4 then .error .reservedField
  else
    match bordOf (r.cmd.extractLsb' 10 2), r.payload with
    | Option.none, _ => .error .byteOrderCode
    | some b, [p0, p1, p2, p3] =>
      .ok (.construct (slotOf r.cmd) (imm16Of r.cmd) b (r.cmd.getLsbD 9) (r.cmd.getLsbD 8) (word16 p0 p1) (word16 p2 p3))
    | some _, _ => .error .payloadLength

/-- The check shared by the commands that take no payload: `zero` says that the fields without a meaning are 0 (R82). -/
def decodeBare (zero : Bool) (payload : List Byte) (i : Instr) : Except DecodeError Instr :=
  if zero then (if payload.isEmpty then .ok i else .error .payloadLength) else .error .reservedField

/-- Decode a request (R82, R83): the command from OPC alone, its operands from the fixed fields. Total, and independent
of the block's state (`numSlots` is the parameter NUM_SLOTS). -/
def decode (numSlots : Nat) (r : Request) : Except DecodeError Instr :=
  if numSlots ≤ (slotOf r.cmd).toNat then .error .slotOutOfRange
  else
    match (opcOf r.cmd).toNat with
    | 0x1 => decodeConstruct r
    | 0x2 =>
      decodeBare (r.cmd.extractLsb' 10 6 == 0#6 && imm16Of r.cmd == 0#16) r.payload
        (.preset (slotOf r.cmd) (presetOf (r.cmd.extractLsb' 8 2)))
    | 0x3 =>
      if arg8Of r.cmd = 0#8 ∧ imm16Of r.cmd = 0#16 then .ok (.checksum (slotOf r.cmd) r.payload)
      else .error .reservedField
    | 0x4 =>
      if arg8Of r.cmd = 0#8 then .ok (.update (slotOf r.cmd) (imm16Of r.cmd) r.payload) else .error .reservedField
    | 0x5 => decodeBare (arg8Of r.cmd == 0#8) r.payload (.toBytes (slotOf r.cmd) (imm16Of r.cmd))
    | 0x6 => decodeBare (arg8Of r.cmd == 0#8 && imm16Of r.cmd == 0#16) r.payload (.buildTable (slotOf r.cmd))
    | 0x7 => decodeBare (imm16Of r.cmd == 0#16) r.payload (.readTable (slotOf r.cmd) (arg8Of r.cmd))
    | 0x8 => decodeBare (arg8Of r.cmd == 0#8 && imm16Of r.cmd == 0#16) r.payload (.release (slotOf r.cmd))
    | _ => .error .reservedOpcode

/-- The field layout of R75: IMM16, ARG8, SLOT, OPC from the top. -/
def packCmd (imm16 : Word) (arg8 : Byte) (slot opc : BitVec 4) : CmdWord := imm16 ++ arg8 ++ slot ++ opc

/-- CONSTRUCT's ARG8: CMD[15:12] = 0, BORD code, REFOUT, REFIN (R75). -/
def constructArg8 (bord : ByteOrder) (refout refin : Bool) : Byte :=
  0#4 ++ bordCode bord ++ BitVec.ofBool refout ++ BitVec.ofBool refin

/-- The request that stands for a command (R75, R76, R78). -/
def encode (i : Instr) : Request :=
  match i with
  | .construct k poly bord refout refin init xorout =>
    { cmd := packCmd poly (constructArg8 bord refout refin) k 0x1#4
      payload := [highByte init, lowByte init, highByte xorout, lowByte xorout] }
  | .preset k id => { cmd := packCmd 0#16 (0#6 ++ presetCode id) k 0x2#4, payload := [] }
  | .checksum k data => { cmd := packCmd 0#16 0#8 k 0x3#4, payload := data }
  | .update k prev data => { cmd := packCmd prev 0#8 k 0x4#4, payload := data }
  | .toBytes k value => { cmd := packCmd value 0#8 k 0x5#4, payload := [] }
  | .buildTable k => { cmd := packCmd 0#16 0#8 k 0x6#4, payload := [] }
  | .readTable k index => { cmd := packCmd 0#16 index k 0x7#4, payload := [] }
  | .release k => { cmd := packCmd 0#16 0#8 k 0x8#4, payload := [] }

/-- How many payload bytes an opcode-table word of `nbits` bits brings with it (log 9): the bytes above the command word
if the row has any, else four for CONSTRUCT (R78) and none for the others. -/
def tablePayloadLength (nbits : Nat) (cmd : CmdWord) : Nat :=
  max ((nbits - 32) / 8) (if (opcOf cmd).toNat = 1 then 4 else 0)

/-- The request that a word of the opcode table stands for (log 9): its low 32 bits are CMD, later bits are payload bytes
in transfer order, and what the table gives no bits is zero. -/
def tableRequest (nbits w : Nat) : Request :=
  let bits := w % 2 ^ nbits
  let cmd : CmdWord := BitVec.ofNat 32 bits
  { cmd := cmd
    payload := (List.range (tablePayloadLength nbits cmd)).map fun j => BitVec.ofNat 8 (bits >>> (32 + 8 * j)) }

/-- The command this decoder reads from an opcode-table word, on the machine of `State.reset` (log 1, log 9). -/
def decodeTableWord (nbits w : Nat) : Option Instr :=
  match decode Config.reference.numSlots (tableRequest nbits w) with
  | .ok i => some i
  | .error _ => Option.none

end Sys2Proof
end

