-- ==== Sys2Proof/Machine/State.lean ====
section
/-! DEFINITION. The state of the block and of its requesters (10_state.md), responses (R80), and the machine after reset
(R37, R260). -/

namespace Sys2Proof.Machine

/-- TSTATE (R28): whether the table has been built. Building is never seen between commands, so it is no value. -/
inductive TableState
  | unbuilt
  | built
  deriving DecidableEq, Repr

/-- One instance slot (R20 to R28). -/
structure Slot where
  valid  : Bool
  cfg    : Configuration
  table  : Table
  tstate : TableState
  deriving DecidableEq, Repr

/-- The status of a response (R220); codes 0x4 to 0xF are never produced. -/
inductive Status
  | ok
  | errIllegal
  | errNoInstance
  | errLength
  deriving DecidableEq, Repr

/-- A response (R80): status, result, and 0 or 2 output bytes. -/
structure Response where
  status : Status
  data   : Word
  out    : List Byte
  deriving DecidableEq, Repr

/-- One entry of a requester's issue sequence (R36): pending (`none`) or answered with its response
(DESIGN CHOICE, log 10: answered requests stay in the sequence). -/
structure Issued where
  request  : Request
  response : Option Response
  deriving DecidableEq, Repr

/-- The whole machine.
`slots` is `S.slot[0 .. NUM_SLOTS-1]`, so its length is NUM_SLOTS (R7, R20).
`requesters` holds one issue sequence per requester, so its length is NUM_REQUESTERS (R8, R36).
`maxPayload` is MAX_PAYLOAD, `none` for UNBOUNDED (R9).
`response` is the response on its way to its requester inside one step (R13); none between steps (log 6).
`arbitration` is the order in which requesters are still to be served (R20, R60; log 7).
`draws` counts the free values drawn so far (the model's own field, log 5). -/
structure State where
  slots       : List Slot
  requesters  : List (List Issued)
  maxPayload  : Option Nat
  response    : Option Response
  arbitration : List Nat
  draws       : Nat
  deriving DecidableEq, Repr

/-- Reasons for the machine to stop with a fault: there is none. The block takes no traps (R228), and an error is a
response with a status (R220, R221); so nobody raises a fault (log 16, safe). -/
inductive Fault
  deriving DecidableEq, Repr

/-- Reasons to refuse an instruction. -/
inductive Refusal
  /-- Raised only by an arm of `exec` whose command has no meaning yet, and every command has one: nobody raises it.
  Safe: it would stop the run. -/
  | notModelled (mnemonic : String)
  deriving DecidableEq, Repr

/-- A slot after reset: VALID = 0 and TSTATE = UNBUILT as R37 says. DESIGN CHOICE (log 2, log 3): the fields R37 leaves
unspecified are zero, BORD is NONE. -/
def Slot.reset : Slot :=
  { valid := false
    cfg := { poly := 0, init := 0, refin := false, refout := false, xorout := 0, bord := .none }
    table := Vector.replicate 256 0
    tstate := .unbuilt }

/-- The machine after reset (R37, R260) for any parameters. -/
def State.resetOf (c : Config) : State :=
  { slots := List.replicate c.numSlots Slot.reset
    requesters := List.replicate c.numRequesters []
    maxPayload := c.maxPayload
    response := none
    arbitration := []
    draws := 0 }

/-- The machine right after reset, with the parameters of `Config.reference` (log 1). -/
def State.reset : State := State.resetOf Config.reference

/-- NUM_SLOTS (R7). -/
def State.numSlots (s : State) : Nat := s.slots.length

/-- NUM_REQUESTERS (R8). -/
def State.numRequesters (s : State) : Nat := s.requesters.length

end Sys2Proof.Machine
end

