-- ==== Sys2Proof/Machine/Flags.lean ====
section
/-! DEFINITION. Status codes (R220), and the two flags a command may write, VALID and TSTATE: what beginning and ending an
engine leaves in a slot (R101, R102, R104, R105), the lifecycle they encode (R263). -/

namespace Sys2Proof.Machine

/-- The 4-bit status code (R220). -/
def Status.code : Status → BitVec 4
  | .ok => 0x0#4
  | .errIllegal => 0x1#4
  | .errNoInstance => 0x2#4
  | .errLength => 0x3#4

/-- The status a code stands for; the reserved codes 0x4 to 0xF stand for none (R220, I9). -/
def Status.ofCode (c : BitVec 4) : Option Status :=
  match c.toNat with
  | 0x0 => some .ok
  | 0x1 => some .errIllegal
  | 0x2 => some .errNoInstance
  | 0x3 => some .errLength
  | _ => none

/-- The lifecycle states of a slot (R263). -/
inductive Lifecycle
  | empty
  | liveUnbuilt
  | liveBuilt
  deriving DecidableEq, Repr

/-- The lifecycle state that VALID and TSTATE encode (R263). -/
def Slot.lifecycle (sl : Slot) : Lifecycle :=
  if sl.valid then
    match sl.tstate with
    | .unbuilt => .liveUnbuilt
    | .built => .liveBuilt
  else .empty

/-- A slot in which a new engine begins (R101, R104): the configuration is loaded, TSTATE is UNBUILT, VALID is 1. The
table contents are unspecified (R27): a free value (log 4). -/
def Slot.begin (cfg : Configuration) (draw : Nat) : Slot :=
  { valid := true, cfg := cfg, table := Config.freeTable draw, tstate := .unbuilt }

/-- A slot that holds no engine (R105, R260): VALID is 0, TSTATE is UNBUILT, everything else is unspecified: free values
(log 4). -/
def Slot.ended (draw : Nat) : Slot :=
  { valid := false, cfg := Config.freeConfiguration draw, table := Config.freeTable draw, tstate := .unbuilt }

end Sys2Proof.Machine
end

