-- ==== Sys2Proof/Machine/Operands.lean ====
section
/-! DEFINITION. What the operands and results of commands stand for: the preset ROM (R103), the payload bound (R224), the
packed response word (R81). The operand fields of the command word are in Decode.lean. -/

namespace Sys2Proof.Machine

/-- The preset ROM (R33, R103). -/
def presetRom : PresetId → Configuration
  | .xmodem =>
    { poly := 0x1021, init := 0x0000, refin := false, refout := false, xorout := 0x0000, bord := .big }
  | .kermit =>
    { poly := 0x1021, init := 0x0000, refin := true, refout := true, xorout := 0x0000, bord := .little }
  | .ccittFalse =>
    { poly := 0x1021, init := 0xFFFF, refin := false, refout := false, xorout := 0x0000, bord := .big }
  | .modbus =>
    { poly := 0x8005, init := 0xFFFF, refin := true, refout := true, xorout := 0x0000, bord := .little }

/-- `MAX_PAYLOAD != UNBOUNDED and len(P) > MAX_PAYLOAD` (R224). -/
def tooLong (maxPayload : Option Nat) (data : List Byte) : Bool :=
  match maxPayload with
  | none => false
  | some bound => decide (bound < data.length)

/-- OUTV: 1 when two output bytes follow, 0 when none do (R81). -/
def outValid (r : Response) : Bool := !r.out.isEmpty

/-- The packed response word RESP (R81): STATUS in bits 31..28, zeros, OUTV in bit 16, DATA in bits 15..0. The output
bytes travel after it. -/
def packResponse (r : Response) : CmdWord := r.status.code ++ 0#11 ++ BitVec.ofBool (outValid r) ++ r.data

/-- The response that a packed word and the bytes after it stand for, if they stand for one (R81). -/
def unpackResponse (resp : CmdWord) (out : List Byte) : Option Response :=
  match Status.ofCode (resp.extractLsb' 28 4) with
  | none => none
  | some st =>
    if resp.extractLsb' 17 11 = 0#11 ∧ out.length = (if resp.getLsbD 16 then 2 else 0) then
      some { status := st, data := resp.extractLsb' 0 16, out := out }
    else none

end Sys2Proof.Machine
end

