-- ==== Sys2Proof/Machine/Table.lean ====
section
/-! DEFINITION. Bit reversal and the table builder (41_table_builder.md R130 to R137). -/

namespace Sys2Proof.Machine

/-- `rev8`: bit 7-j of the result is bit j of x (R130). -/
def rev8 (x : Byte) : Byte := x.reverse

/-- `rev16`: bit 15-j of the result is bit j of x, a full reversal and no byte swap (R131). -/
def rev16 (x : Word) : Word := x.reverse

/-- One shift of R132: the bit tested is r[15] before the shift. -/
def shiftStep (poly r : Word) : Word := if r.getLsbD 15 then (r <<< 1) ^^^ poly else r <<< 1

/-- `n` shifts of R132. -/
def shiftSteps (poly : Word) : Nat → Word → Word
  | 0, r => r
  | n + 1, r => shiftSteps poly n (shiftStep poly r)

/-- `step8(r, poly)` (R132). -/
def step8 (r poly : Word) : Word := shiftSteps poly 8 r

/-- `zext16(i) << 8`: the byte in the high half of a word, the seed of both builds (R133, R135). -/
def seed (i : Byte) : Word := i.zeroExtend 16 <<< 8

/-- `Tn(poly)[i]`, the normal build (R133). -/
def normalEntry (poly : Word) (i : Byte) : Word := step8 (seed i) poly

/-- `Tr(poly)[i]`, the reflected build; the polynomial itself is not reflected (R135). -/
def reflectedEntry (poly : Word) (i : Byte) : Word := rev16 (step8 (seed (rev8 i)) poly)

/-- Entry i of `build(poly, refin)` (R134). -/
def tableEntry (poly : Word) (refin : Bool) (i : Byte) : Word :=
  if refin then reflectedEntry poly i else normalEntry poly i

/-- The table whose entry i is `f i`. -/
def tabulate (f : Byte → Word) : Table :=
  ⟨((List.range 256).map fun i => f (BitVec.ofNat 8 i)).toArray, by simp⟩

/-- `build(poly, refin)` (R134). -/
def build (poly : Word) (refin : Bool) : Table := tabulate (tableEntry poly refin)

/-- `TRead(k, i)` on the slot's table (R12, R27). -/
def tRead (sl : Slot) (i : Byte) : Word := sl.table[i.toNat]'i.isLt

/-- `TWrite(k, i, v)` on the slot's table (R12, R27). -/
def tWrite (sl : Slot) (i : Byte) (v : Word) : Slot := { sl with table := sl.table.set i.toNat v i.isLt }

/-- `ensureTable(k)`, the lazy build (R137): on an UNBUILT slot all 256 entries are written and TSTATE becomes BUILT; on
a BUILT slot nothing happens. -/
def ensureTable (sl : Slot) : Slot :=
  match sl.tstate with
  | .unbuilt => { sl with table := build sl.cfg.poly sl.cfg.refin, tstate := .built }
  | .built => sl

end Sys2Proof.Machine
end

