-- ==== Sys2Proof/Machine/Pipeline.lean ====
section
/-! DEFINITION. The three stages of CHECKSUM and UPDATE (R160 to R163) and the output serializer (R200). -/

namespace Sys2Proof.Machine

/-- One byte of the feed loop with REFIN = 0 (R160). -/
def feedNormal (sl : Slot) (r : Word) (b : Byte) : Word := tRead sl (highByte r ^^^ b) ^^^ (r <<< 8)

/-- One byte of the feed loop with REFIN = 1, in the reflected domain (R160). -/
def feedReflected (sl : Slot) (r : Word) (b : Byte) : Word := tRead sl (lowByte r ^^^ b) ^^^ (r >>> 8)

/-- `feed(k, r, P)`, the byte feed loop (R160): payload bytes in index order (R52), none of them reversed (R53).
With REFIN ≠ REFOUT the rules are followed as they stand (UNVERIFIED, log 11). -/
def feed (sl : Slot) (r : Word) (data : List Byte) : Word :=
  if sl.cfg.refin then rev16 (data.foldl (feedReflected sl) (rev16 r)) else data.foldl (feedNormal sl) r

/-- `outX(k, v)`, the output transform (R161): the reflection, whatever REFIN is (R163), then the XOR. -/
def outX (cfg : Configuration) (v : Word) : Word := (if cfg.refout then rev16 v else v) ^^^ cfg.xorout

/-- `unOutX(k, c)`, its inverse (R162): the XOR, then the reflection. -/
def unOutX (cfg : Configuration) (c : Word) : Word :=
  if cfg.refout then rev16 (c ^^^ cfg.xorout) else c ^^^ cfg.xorout

/-- `serialize(v, bord)` (R200). -/
def serialize (v : Word) (bord : ByteOrder) : List Byte :=
  match bord with
  | .none => []
  | .big => [highByte v, lowByte v]
  | .little => [lowByte v, highByte v]

end Sys2Proof.Machine
end

