-- ==== Sys2Proof/Machine/Ops.lean ====
section
/-! DEFINITION. The operations the meanings share: writing a slot, responding (R13), the error response (R221), which is
what this block has in place of taking an exception (R228: it saves nothing and transfers control nowhere, so there is no
return from it, R229), the three checks in their order (R225), and the reset event (R260). -/

namespace Sys2Proof.Machine

/-- What a command answers with. -/
abbrev Result := Host.Outcome State Fault Refusal

/-- Write slot k. -/
def State.setSlot (s : State) (k : BitVec 4) (sl : Slot) : State := { s with slots := s.slots.set k.toNat sl }

/-- `respond(status, data, out)` (R13). -/
def State.respond (s : State) (status : Status) (data : Word) (out : List Byte) : State :=
  { s with response := some { status := status, data := data, out := out } }

/-- `raise ERR_X` (R13, R221): DATA = 0x0000, OUT = [], and no state changes. -/
def raise (status : Status) (s : State) : Result := .next (s.respond status 0 [])

/-- The SLOT part of the decode check (R72, R222): a slot index that names no slot is ERR_ILLEGAL
(DEDUCED, log 12: the decoder lets none through). -/
def onSlot (k : BitVec 4) (s : State) (body : Slot → Result) : Result :=
  match s.slots[k.toNat]? with
  | none => raise .errIllegal s
  | some sl => body sl

/-- The length check of CHECKSUM and UPDATE (R224). -/
def withinBound (data : List Byte) (s : State) (body : Result) : Result :=
  if tooLong s.maxPayload data then raise .errLength s else body

/-- The instance check of every command but CONSTRUCT and PRESET (R223). -/
def onLive (sl : Slot) (s : State) (body : Result) : Result :=
  if sl.valid then body else raise .errNoInstance s

/-- Begin a new engine in slot k and respond OK (R101, R102, R104). The table contents are a fresh free value (log 4). -/
def beginEngine (k : BitVec 4) (cfg : Configuration) (s : State) : Result :=
  onSlot k s fun _ =>
    .next ({ s.setSlot k (Slot.begin cfg s.draws) with draws := s.draws + 1 }.respond .ok 0 [])

/-- Run `body` on the slot's table after the lazy build (R137, R138), keep the built table, respond OK with the word. -/
def usingTable (k : BitVec 4) (sl : Slot) (s : State) (body : Slot → Word) : Result :=
  .next ((s.setSlot k (ensureTable sl)).respond .ok (body (ensureTable sl)) [])

/-- The shared pipeline of CHECKSUM and UPDATE (R160, R161): from the start value that `start` takes from the
configuration, feed the data, apply the output transform. -/
def runPipeline (start : Configuration → Word) (data : List Byte) (sl : Slot) : Word :=
  outX sl.cfg (feed sl (start sl.cfg) data)

/-- The reset event (R260), an input of the outside world (log 14): no slot holds an engine, every issue sequence is
emptied, nothing is in flight. The parameters stay. The unspecified fields take fresh free values (log 4). -/
def State.resetEvent (s : State) : State :=
  { s with
    slots := s.slots.mapIdx fun k _ => Slot.ended (s.draws + k)
    requesters := s.requesters.map fun _ => []
    response := none
    draws := s.draws + s.slots.length }

end Sys2Proof.Machine
end

