-- ==== Sys2Proof/Machine/Configure.lean ====
section
/-! DEFINITION. CONSTRUCT, PRESET and RELEASE (40_configuration.md). -/

namespace Sys2Proof.Machine

/-- CONSTRUCT (R101, R102). -/
def execConstruct (k : BitVec 4) (poly : Word) (bord : ByteOrder) (refout refin : Bool) (init xorout : Word)
    (s : State) : Result :=
  beginEngine k
    { poly := poly, init := init, refin := refin, refout := refout, xorout := xorout, bord := bord } s

/-- PRESET (R104). -/
def execPreset (k : BitVec 4) (id : PresetId) (s : State) : Result := beginEngine k (presetRom id) s

/-- RELEASE (R105). The fields that become unspecified take fresh free values (log 4). -/
def execRelease (k : BitVec 4) (s : State) : Result :=
  onSlot k s fun sl =>
    onLive sl s (.next ({ s.setSlot k (Slot.ended s.draws) with draws := s.draws + 1 }.respond .ok 0 []))

end Sys2Proof.Machine
end

