-- ==== Sys2Proof/Machine/CrcCommands.lean ====
section
/-! DEFINITION. CHECKSUM and UPDATE (42_checksum_update.md). -/

namespace Sys2Proof.Machine

/-- CHECKSUM (R164): the register starts at INIT. -/
def execChecksum (k : BitVec 4) (data : List Byte) (s : State) : Result :=
  onSlot k s fun sl =>
    withinBound data s (onLive sl s (usingTable k sl s (runPipeline (fun cfg => cfg.init) data)))

/-- UPDATE (R165): the register starts at the undone previous CRC; INIT is not read. -/
def execUpdate (k : BitVec 4) (prev : Word) (data : List Byte) (s : State) : Result :=
  onSlot k s fun sl =>
    withinBound data s (onLive sl s (usingTable k sl s (runPipeline (fun cfg => unOutX cfg prev) data)))

end Sys2Proof.Machine
end

