-- ==== Sys2Proof/Machine/SerializerCommands.lean ====
section
/-! DEFINITION. TO_BYTES (43_serializer.md). -/

namespace Sys2Proof.Machine

/-- TO_BYTES (R201): no lazy build, no state written. -/
def execToBytes (k : BitVec 4) (value : Word) (s : State) : Result :=
  onSlot k s fun sl => onLive sl s (.next (s.respond .ok 0 (serialize value sl.cfg.bord)))

end Sys2Proof.Machine
end

