-- ==== Sys2Proof/Machine/TableCommands.lean ====
section
/-! DEFINITION. BUILD_TABLE and READ_TABLE (41_table_builder.md). -/

namespace Sys2Proof.Machine

/-- BUILD_TABLE (R139). -/
def execBuildTable (k : BitVec 4) (s : State) : Result :=
  onSlot k s fun sl => onLive sl s (usingTable k sl s fun _ => 0)

/-- READ_TABLE (R140). -/
def execReadTable (k : BitVec 4) (index : Byte) (s : State) : Result :=
  onSlot k s fun sl => onLive sl s (usingTable k sl s fun built => tRead built index)

end Sys2Proof.Machine
end

