-- ==== Sys2Proof/Machine/Dispatch.lean ====
section
/-! DEFINITION. The `case OPC of` of R225: one arm per command. -/

namespace Sys2Proof.Machine

def exec (i : Instr) (s : State) : Host.Outcome State Fault Refusal :=
  match i with
  | .construct k poly bord refout refin init xorout => Sys2Proof.Machine.execConstruct k poly bord refout refin init xorout s
  | .preset k id => Sys2Proof.Machine.execPreset k id s
  | .checksum k data => Sys2Proof.Machine.execChecksum k data s
  | .update k prev data => Sys2Proof.Machine.execUpdate k prev data s
  | .toBytes k value => Sys2Proof.Machine.execToBytes k value s
  | .buildTable k => Sys2Proof.Machine.execBuildTable k s
  | .readTable k index => Sys2Proof.Machine.execReadTable k index s
  | .release k => Sys2Proof.Machine.execRelease k s

end Sys2Proof.Machine
end

