-- ==== Sys2Proof/Machine/Requesters.lean ====
section
/-! DEFINITION. The requesters' side (R36, R60, R231, R232): issuing a request, which requester is served next, the
oldest pending request of a requester, and giving the response to the requester that issued it. -/

namespace Sys2Proof.Machine

/-- The oldest pending request of an issue sequence (R231). -/
def oldestPending : List Issued → Option Request
  | [] => none
  | e :: rest => if e.response.isNone then some e.request else oldestPending rest

/-- The oldest pending request of requester q. -/
def State.pendingOf (s : State) (q : Nat) : Option Request :=
  match s.requesters[q]? with
  | none => none
  | some seq => oldestPending seq

/-- Requester q issues a request (R36); a number that names no requester issues nothing (log 9). -/
def State.issue (s : State) (q : Nat) (r : Request) : State :=
  { s with requesters := s.requesters.modify q fun seq => seq ++ [{ request := r, response := none }] }

/-- Whose request a step performs, which request, and what the choice leaves of the arbitration order and of the free
values' counter. -/
structure Turn where
  requester   : Nat
  request     : Request
  arbitration : List Nat
  draws       : Nat
  deriving DecidableEq, Repr

/-- The first requester of an arbitration order that has a pending request; requesters without one are passed over. -/
def State.namedTurn (s : State) : List Nat → Option Turn
  | [] => none
  | q :: rest =>
    match s.pendingOf q with
    | some r => some { requester := q, request := r, arbitration := rest, draws := s.draws }
    | none => s.namedTurn rest

/-- The requesters that have a pending request, each with its oldest one, in the order of their numbers. -/
def State.ready (s : State) : List (Nat × Request) :=
  (List.range s.requesters.length).filterMap fun q => (s.pendingOf q).map fun r => (q, r)

/-- The choice of R231, which is open (R60): the arbitration order decides, and where it names no requester that is
pending and several are, a free value does (log 7). `none` when nothing is pending. -/
def State.choose (s : State) : Option Turn :=
  match s.namedTurn s.arbitration with
  | some t => some t
  | none =>
    match s.ready with
    | [] => none
    | [(q, r)] => some { requester := q, request := r, arbitration := [], draws := s.draws }
    | c :: c' :: more =>
      let pick := (c :: c' :: more)[Config.freeChoice s.draws % (c :: c' :: more).length]'(Nat.mod_lt _ (by simp))
      some { requester := pick.1, request := pick.2, arbitration := [], draws := s.draws + 1 }

/-- The state in which the chosen request is performed. -/
def State.takeTurn (s : State) (t : Turn) : State := { s with arbitration := t.arbitration, draws := t.draws }

/-- Answer the oldest pending request of an issue sequence (R36, R232). -/
def answerOldest (r : Response) : List Issued → List Issued
  | [] => []
  | e :: rest => if e.response.isNone then { e with response := some r } :: rest else e :: answerOldest r rest

/-- The response goes to the requester that issued the request (R225, R232), and leaves the wire. -/
def State.route (s : State) (q : Nat) : State :=
  match s.response with
  | none => s
  | some r => { s with requesters := s.requesters.modify q (answerOldest r), response := none }

/-- Put a request before the first pending one of an issue sequence. -/
def insertPending (r : Request) : List Issued → List Issued
  | [] => [{ request := r, response := none }]
  | e :: rest =>
    if e.response.isNone then { request := r, response := none } :: e :: rest else e :: insertPending r rest

/-- Make `r` the request the next step performs (log 9): it becomes requester 0's oldest pending request, and the
arbitration order names requester 0 first. -/
def State.placeNext (s : State) (r : Request) : State :=
  { s with
    requesters :=
      match s.requesters with
      | [] => [[{ request := r, response := none }]]
      | seq :: rest => insertPending r seq :: rest
    arbitration := 0 :: s.arbitration }

end Sys2Proof.Machine
end

