-- ==== Sys2Proof/Machine/Perform.lean ====
section
/-! DEFINITION. `perform(q, CMD, P)` (R225): decode, checks, command and response in one step (R56). -/

namespace Sys2Proof.Machine

/-- Perform one request (R225). A request that fails the decode check is answered ERR_ILLEGAL (R222); the other two
checks are made by the command's meaning, in the order of R225. -/
def perform (r : Request) (s : State) : Result :=
  match decode s.numSlots r with
  | .error _ => raise .errIllegal s
  | .ok i => exec i s

/-- Give the response to requester q (R232). -/
def deliver (q : Nat) (o : Result) : Result :=
  match o with
  | .next s => .next (s.route q)
  | .fault f => .fault f
  | .refused f => .refused f

/-- One machine step (R231): the chosen requester's oldest pending request is performed and answered. With nothing
pending the block holds its state (R236; log 8). -/
def stepOf (s : State) : Result :=
  match s.choose with
  | none => .next s
  | some t => deliver t.requester (perform t.request (s.takeTurn t))

end Sys2Proof.Machine
end

