-- ==== Sys2Proof/Machine/Step.lean ====
section
/-! DEFINITION. The step of the machine, and the state whose next step performs a word of the opcode table. -/

namespace Sys2Proof.Machine

/-- One step (R231). -/
def step (s : State) : Host.Outcome State Fault Refusal := stepOf s

/-- `s` with the request that an opcode-table word stands for placed so that the next step performs it (log 9). -/
def State.withFetchWord (s : State) (nbits w : Nat) : State := s.placeNext (tableRequest nbits w)

end Sys2Proof.Machine
end

