-- ==== Sys2Proof/Machine/Assembler.lean ====
section
/-! DEFINITION. The assembler syntax of 30_encoding.md (R85, R86): one request per line. It carries no semantics (D28):
a line stands for the request its mnemonic, fields and payload assemble to. Small points of spelling are
DESIGN CHOICE (log 18). -/

namespace Sys2Proof.Machine

/-- The words of the syntax: the mnemonics (R76), the four preset names (R79), CONSTRUCT's keywords and the three order
names (R85). -/
inductive Keyword
  | construct | preset | checksum | update | toBytes | buildTable | readTable | release
  | xmodem | kermit | ccittFalse | modbus
  | poly | init | xorout | refin | refout | order
  | none | big | little
  deriving DecidableEq, Repr

/-- A token of a line. -/
inductive Token
  | word (w : Keyword)
  | slot (k : Nat)
  | num (n : Nat)
  | text (bytes : List Byte)
  | comma
  | equals
  | openList
  | closeList
  | join
  deriving DecidableEq, Repr

/-- How each word is spelt (R85). -/
def keywordTable : List (String × Keyword) :=
  [("CONSTRUCT", .construct), ("PRESET", .preset), ("CHECKSUM", .checksum), ("UPDATE", .update),
   ("TO_BYTES", .toBytes), ("BUILD_TABLE", .buildTable), ("READ_TABLE", .readTable), ("RELEASE", .release)] ++
  [("XMODEM", .xmodem), ("KERMIT", .kermit), ("CCITT_FALSE", .ccittFalse), ("MODBUS", .modbus)] ++
  [("poly", .poly), ("init", .init), ("xorout", .xorout), ("refin", .refin), ("refout", .refout), ("order", .order)] ++
  [("none", .none), ("big", .big), ("little", .little)]

/-- The value of a digit in a base. -/
def digitValue (base : Nat) (c : Char) : Option Nat :=
  let v :=
    if '0' ≤ c ∧ c ≤ '9' then c.toNat - '0'.toNat
    else if 'a' ≤ c ∧ c ≤ 'f' then c.toNat - 'a'.toNat + 10
    else if 'A' ≤ c ∧ c ≤ 'F' then c.toNat - 'A'.toNat + 10
    else base
  if v < base then some v else Option.none

/-- The number that a run of digits stands for. -/
def digitsValue (base : Nat) (acc : Nat) : List Char → Option Nat
  | [] => some acc
  | c :: cs =>
    match digitValue base c with
    | Option.none => Option.none
    | some v => digitsValue base (acc * base + v) cs

/-- A number is decimal or `0x` hexadecimal (R85), with at least one digit; leading zeros are allowed, and the prefix has a
small `x` (DESIGN CHOICE, log 18). -/
def numberValue : List Char → Option Nat
  | [] => Option.none
  | '0' :: 'x' :: [] => Option.none
  | '0' :: 'x' :: c :: cs => digitsValue 16 0 (c :: cs)
  | c :: cs => digitsValue 10 0 (c :: cs)

/-- What a run of letters, digits and underscores is: a word of the syntax, `s<k>`, or a number (R85). R85 does not say
whether the k of `s<k>` is one of its numbers; it is read as decimal digits only, so `s0x1` is nothing
(DESIGN CHOICE, log 18). -/
def classify (cs : List Char) : Option Token :=
  match keywordTable.find? (fun e => e.1.toList == cs) with
  | some e => some (.word e.2)
  | Option.none =>
    match cs with
    | 's' :: c :: rest => (digitsValue 10 0 (c :: rest)).map .slot
    | _ => (numberValue cs).map .num

/-- Where the reader of a line stands: between tokens, inside a run of word characters (kept in reverse), inside a
quoted string (its bytes in reverse), or after the first `+` of `++`. -/
inductive LexMode
  | gap
  | run (acc : List Char)
  | quoted (acc : List Byte)
  | plus
  deriving DecidableEq, Repr

/-- Letters, digits and the underscore. -/
def isRunChar (c : Char) : Bool := c.isAlphanum || c == '_'

/-- Punctuation between tokens: the token it is, if any, and where the reader stands after it. Code 34 is the double
quote. -/
def punctuation (c : Char) : Option (List Token × LexMode) :=
  if c == ' ' then some ([], .gap)
  else if c == ',' then some ([.comma], .gap)
  else if c == '=' then some ([.equals], .gap)
  else if c == '[' then some ([.openList], .gap)
  else if c == ']' then some ([.closeList], .gap)
  else if c == '+' then some ([], .plus)
  else if c.toNat == 34 then some ([], .quoted [])
  else Option.none

/-- The tokens of a line. A quoted string holds ASCII characters, one byte each (R85). -/
def lex : List Char → LexMode → Option (List Token)
  | [], .gap => some []
  | [], .run acc => (classify acc.reverse).map fun t => [t]
  | [], .quoted _ => Option.none
  | [], .plus => Option.none
  | c :: cs, .gap =>
    if isRunChar c then lex cs (.run [c])
    else
      match punctuation c with
      | Option.none => Option.none
      | some (ts, m) => (lex cs m).map fun more => ts ++ more
  | c :: cs, .run acc =>
    if isRunChar c then lex cs (.run (c :: acc))
    else
      match classify acc.reverse, punctuation c with
      | some t, some (ts, m) => (lex cs m).map fun more => t :: (ts ++ more)
      | _, _ => Option.none
  | c :: cs, .quoted acc =>
    if c.toNat == 34 then (lex cs .gap).map fun more => .text acc.reverse :: more
    else if c.toNat < 128 then lex cs (.quoted (BitVec.ofNat 8 c.toNat :: acc))
    else Option.none
  | c :: cs, .plus => if c == '+' then (lex cs .gap).map fun more => .join :: more else Option.none

/-- Where the reader of a payload stands (R85). -/
inductive PayloadMode
  | part
  | first
  | item
  | afterItem
  | afterPart
  deriving DecidableEq, Repr

/-- A payload is one or more parts joined by `++`, a part is a quoted string or a byte list `[b0, b1, ...]` (R85). -/
def payloadOf : List Token → PayloadMode → List Byte → Option (List Byte)
  | [], .afterPart, acc => some acc
  | .text bytes :: rest, .part, acc => payloadOf rest .afterPart (acc ++ bytes)
  | .openList :: rest, .part, acc => payloadOf rest .first acc
  | .closeList :: rest, .first, acc => payloadOf rest .afterPart acc
  | .num n :: rest, .first, acc =>
    if n < 256 then payloadOf rest .afterItem (acc ++ [BitVec.ofNat 8 n]) else Option.none
  | .num n :: rest, .item, acc =>
    if n < 256 then payloadOf rest .afterItem (acc ++ [BitVec.ofNat 8 n]) else Option.none
  | .comma :: rest, .afterItem, acc => payloadOf rest .item acc
  | .closeList :: rest, .afterItem, acc => payloadOf rest .afterPart acc
  | .join :: rest, .afterPart, acc => payloadOf rest .part acc
  | _, _, _ => Option.none

/-- CONSTRUCT's `keyword=value` arguments, separated by commas (R85). -/
def argumentsOf : List Token → Option (List (Keyword × Token))
  | [.word w, .equals, v] => some [(w, v)]
  | .word w :: .equals :: v :: .comma :: rest => (argumentsOf rest).map fun more => (w, v) :: more
  | _ => Option.none

/-- The value of a keyword that appears exactly once (R85). -/
def argument (args : List (Keyword × Token)) (w : Keyword) : Option Token :=
  match args.filter fun a => a.1 == w with
  | [a] => some a.2
  | _ => Option.none

/-- A slot number fits the SLOT field (R72). -/
def slotField (k : Nat) : Option (BitVec 4) := if k < 16 then some (BitVec.ofNat 4 k) else Option.none

/-- A `<u16>` operand. -/
def wordField : Token → Option Word
  | .num n => if n < 65536 then some (BitVec.ofNat 16 n) else Option.none
  | _ => Option.none

/-- A `<u8>` operand. -/
def byteField : Token → Option Byte
  | .num n => if n < 256 then some (BitVec.ofNat 8 n) else Option.none
  | _ => Option.none

/-- A `<0|1>` operand. -/
def flagField : Token → Option Bool
  | .num 0 => some false
  | .num 1 => some true
  | _ => Option.none

/-- An order name (R85). -/
def orderField : Token → Option ByteOrder
  | .word .none => some .none
  | .word .big => some .big
  | .word .little => some .little
  | _ => Option.none

/-- A preset name (R79, R86). -/
def presetField : Keyword → Option PresetId
  | .xmodem => some .xmodem
  | .kermit => some .kermit
  | .ccittFalse => some .ccittFalse
  | .modbus => some .modbus
  | _ => Option.none

/-- The command that a CONSTRUCT line names: its six keywords in any order, each exactly once (R85). -/
def constructLine (k : BitVec 4) (args : List (Keyword × Token)) : Option Instr := do
  let poly ← (argument args .poly).bind wordField
  let init ← (argument args .init).bind wordField
  let xorout ← (argument args .xorout).bind wordField
  let refin ← (argument args .refin).bind flagField
  let refout ← (argument args .refout).bind flagField
  let bord ← (argument args .order).bind orderField
  if args.length = 6 then some (.construct k poly bord refout refin init xorout) else Option.none

/-- The command a line's tokens name (R85). -/
def lineOf : List Token → Option Instr
  | .word .construct :: .slot k :: .comma :: rest => do
    let k ← slotField k
    let args ← argumentsOf rest
    constructLine k args
  | [.word .preset, .slot k, .comma, .word p] => do
    let k ← slotField k
    let p ← presetField p
    some (.preset k p)
  | .word .checksum :: .slot k :: .comma :: rest => do
    let k ← slotField k
    let data ← payloadOf rest .part []
    some (.checksum k data)
  | .word .update :: .slot k :: .comma :: c :: .comma :: rest => do
    let k ← slotField k
    let c ← wordField c
    let data ← payloadOf rest .part []
    some (.update k c data)
  | [.word .toBytes, .slot k, .comma, v] => do
    let k ← slotField k
    let v ← wordField v
    some (.toBytes k v)
  | [.word .buildTable, .slot k] => (slotField k).map .buildTable
  | [.word .readTable, .slot k, .comma, i] => do
    let k ← slotField k
    let i ← byteField i
    some (.readTable k i)
  | [.word .release, .slot k] => (slotField k).map .release
  | _ => Option.none

/-- The request a line assembles to (R85); fields the syntax does not name assemble to 0. -/
def assemble (line : String) : Option Request :=
  match lex line.toList .gap with
  | Option.none => Option.none
  | some ts => (lineOf ts).map encode

/-- The name of a preset (R79, R85). -/
def presetKeyword : PresetId → Keyword
  | .xmodem => .xmodem
  | .kermit => .kermit
  | .ccittFalse => .ccittFalse
  | .modbus => .modbus

/-- The name of a byte order (R85). -/
def orderKeyword : ByteOrder → Keyword
  | .none => .none
  | .big => .big
  | .little => .little

/-- The tokens of a byte list after its opening bracket. -/
def byteListTail : List Byte → List Token
  | [] => [.closeList]
  | [b] => [.num b.toNat, .closeList]
  | b :: c :: rest => .num b.toNat :: .comma :: byteListTail (c :: rest)

/-- The tokens of the line that a command is written as (R85). -/
def tokensOf (i : Instr) : List Token :=
  match i with
  | .construct k poly bord refout refin init xorout =>
    [.word .construct, .slot k.toNat, .comma, .word .poly, .equals, .num poly.toNat, .comma, .word .init, .equals,
      .num init.toNat, .comma, .word .xorout, .equals, .num xorout.toNat, .comma] ++
    [.word .refin, .equals, .num refin.toNat, .comma, .word .refout, .equals, .num refout.toNat, .comma, .word .order,
      .equals, .word (orderKeyword bord)]
  | .preset k id => [.word .preset, .slot k.toNat, .comma, .word (presetKeyword id)]
  | .checksum k data => [.word .checksum, .slot k.toNat, .comma, .openList] ++ byteListTail data
  | .update k prev data =>
    [.word .update, .slot k.toNat, .comma, .num prev.toNat, .comma, .openList] ++ byteListTail data
  | .toBytes k value => [.word .toBytes, .slot k.toNat, .comma, .num value.toNat]
  | .buildTable k => [.word .buildTable, .slot k.toNat]
  | .readTable k index => [.word .readTable, .slot k.toNat, .comma, .num index.toNat]
  | .release k => [.word .release, .slot k.toNat]

/-- A hexadecimal digit, capitals as the spec writes them. -/
def hexDigit (n : Nat) : Char := if n < 10 then Char.ofNat (48 + n) else Char.ofNat (55 + n)

/-- `digits` hexadecimal digits of n, most significant first. -/
def hexText : Nat → Nat → List Char
  | 0, _ => []
  | digits + 1, n => hexText digits (n / 16) ++ [hexDigit (n % 16)]

/-- The name of a status (R220). -/
def statusName : Status → String
  | .ok => "OK"
  | .errIllegal => "ERR_ILLEGAL"
  | .errNoInstance => "ERR_NO_INSTANCE"
  | .errLength => "ERR_LENGTH"

/-- The output bytes of a response, as a byte list. -/
def outText : List Byte → List Char
  | [] => []
  | [b] => "0x".toList ++ hexText 2 b.toNat
  | b :: c :: rest => "0x".toList ++ hexText 2 b.toNat ++ ", ".toList ++ outText (c :: rest)

/-- A line's response, written `-> STATUS, DATA, OUT` (R85). -/
def responseText (r : Response) : List Char :=
  "-> ".toList ++ (statusName r.status).toList ++ ", 0x".toList ++ hexText 4 r.data.toNat ++ ", [".toList ++
    outText r.out ++ "]".toList

end Sys2Proof.Machine
end

