-- ==== Sys2Proof/Safety.lean ====
section
/-! DEFINITION. What claims about this machine are stated with: the invariant of every state, what a command may change,
which parts of the state responses may depend on, and what a safe run is. -/

namespace Sys2Proof

/-- CONSTRUCT and PRESET, the commands that begin an engine (R102, R223). -/
def Instr.creates (i : Instr) : Bool :=
  match i with
  | .construct _ _ _ _ _ _ _ | .preset _ _ => true
  | .checksum _ _ | .update _ _ _ | .toBytes _ _ | .buildTable _ | .readTable _ _ | .release _ => false

/-- CONSTRUCT, PRESET and RELEASE, the commands that begin or end an engine (R28, R61, R65). -/
def Instr.reconfigures (i : Instr) : Bool :=
  match i with
  | .construct _ _ _ _ _ _ _ | .preset _ _ | .release _ => true
  | .checksum _ _ | .update _ _ _ | .toBytes _ _ | .buildTable _ | .readTable _ _ => false

/-- The data bytes whose number MAX_PAYLOAD bounds: CHECKSUM's and UPDATE's (R224). -/
def Instr.data (i : Instr) : List Byte :=
  match i with
  | .checksum _ data | .update _ _ data => data
  | .construct _ _ _ _ _ _ _ | .preset _ _ | .toBytes _ _ | .buildTable _ | .readTable _ _ | .release _ => []

end Sys2Proof

namespace Sys2Proof.Machine

/-- A built table is the table of the slot's configuration (R27, R34). -/
abbrev Slot.faithful (sl : Slot) : Prop :=
  sl.tstate = .built → sl.table = build sl.cfg.poly sl.cfg.refin

/-- A slot without an engine is UNBUILT (R37, R105, R263). -/
abbrev Slot.emptyUnbuilt (sl : Slot) : Prop := sl.valid = false → sl.tstate = .unbuilt

/-- Responses arrive in issue order: the answered requests of a sequence stand before the pending ones (R232). -/
def inOrder (seq : List Issued) : Bool :=
  (seq.dropWhile fun e => e.response.isSome).all fun e => e.response.isNone

/-- The shape of a response (R80, R221): 0 or 2 output bytes, and none, with DATA 0, beside an error status. -/
abbrev Response.wellShaped (r : Response) : Prop :=
  (r.out.length = 0 ∨ r.out.length = 2) ∧ (r.status ≠ .ok → r.data = 0 ∧ r.out = [])

/-- The invariant of the machine between steps. -/
structure Inv (s : State) : Prop where
  /-- NUM_SLOTS is 1 to 16 (R7). -/
  slots_bounds : 1 ≤ s.numSlots ∧ s.numSlots ≤ 16
  /-- NUM_REQUESTERS is at least 1 (R8). -/
  requesters_pos : 1 ≤ s.numRequesters
  /-- Every built table is its configuration's table (R34). -/
  faithful : ∀ sl ∈ s.slots, sl.faithful
  /-- Every empty slot is UNBUILT (R263). -/
  empty_unbuilt : ∀ sl ∈ s.slots, sl.emptyUnbuilt
  /-- Every requester's responses arrive in issue order (R232). -/
  in_order : ∀ seq ∈ s.requesters, inOrder seq = true
  /-- Every response given has the shape of R80 and R221. -/
  shaped : ∀ seq ∈ s.requesters, ∀ e ∈ seq, ∀ r, e.response = some r → r.wellShaped
  /-- The block holds no in-flight request between steps (R36). -/
  nothing_in_flight : s.response = none

/-- What a command on slot k leaves alone: every other slot, the number of slots, the requesters' side, the parameters.
(The response on its way and the counter of free values may differ.) -/
structure OnlySlot (k : BitVec 4) (s t : State) : Prop where
  length_eq : t.slots.length = s.slots.length
  others : ∀ j, j ≠ k.toNat → t.slots[j]? = s.slots[j]?
  requesters_eq : t.requesters = s.requesters
  maxPayload_eq : t.maxPayload = s.maxPayload
  arbitration_eq : t.arbitration = s.arbitration

/-- What a slot shows of itself in responses: its configuration while it holds an engine (R34, I2, I3). -/
def Slot.visible (sl : Slot) : Option Configuration := if sl.valid then some sl.cfg else none

/-- Two states no response may tell apart: same slots as far as they are visible, same payload bound, all tables
faithful. TSTATE, the tables, and the fields of empty slots may differ (R34, I2, I3). -/
structure Alike (s t : State) : Prop where
  visible_eq : s.slots.map Slot.visible = t.slots.map Slot.visible
  maxPayload_eq : s.maxPayload = t.maxPayload
  left_faithful : ∀ sl ∈ s.slots, sl.faithful
  right_faithful : ∀ sl ∈ t.slots, sl.faithful

/-- The lifecycle state after an OK response (R263). -/
def Lifecycle.afterOk (i : Instr) (l : Lifecycle) : Lifecycle :=
  match i with
  | .construct _ _ _ _ _ _ _ | .preset _ _ => .liveUnbuilt
  | .checksum _ _ | .update _ _ _ | .buildTable _ | .readTable _ _ => .liveBuilt
  | .toBytes _ _ => l
  | .release _ => .empty

/-- How many requests of an issue sequence are pending. -/
def pendingIn (seq : List Issued) : Nat := seq.countP fun e => e.response.isNone

/-- How many requests are pending in all. -/
def State.pendingCount (s : State) : Nat := (s.requesters.map pendingIn).sum

/-- The requests issued so far, requester by requester, in issue order. -/
def State.issuedRequests (s : State) : List (List Request) :=
  s.requesters.map fun seq => seq.map fun e => e.request

/-- A safe run: `n` steps stop at no fault and no refusal, and end in a state that meets the invariant. -/
def SafeRun (n : Nat) (s : State) : Prop := ∃ t : State, Sys2Proof.core.run n s = .next t ∧ Inv t

end Sys2Proof.Machine
end

