-- ==== Sys2Proof/Certificates/Slice0/Obligations.lean ====
section
/-! DEFINITION. The statements for the provers. A docstring names the rule of the spec a statement formalises, and the
log entry where a clause rests on the model's own choice. -/

open Sys2Proof Sys2Proof.Machine

/-! ### Encoding -/

/-- R82: a request decodes exactly when every line of `legal` holds, `legal` is that check, and where it is false the
request is answered ERR_ILLEGAL. -/
def Obligations.DecodeCheckIsLegal : Prop :=
  ∀ (n : Nat) (cmd : CmdWord) (payload : List Byte),
    ((∃ i, decode n { cmd := cmd, payload := payload } = .ok i) ↔
      (1 ≤ (opcOf cmd).toNat ∧ (opcOf cmd).toNat ≤ 8) ∧ (slotOf cmd).toNat < n ∧
      (opcOf cmd = 0x1#4 → cmd.extractLsb' 12 4 = 0#4 ∧ cmd.extractLsb' 10 2 ≠ 3#2 ∧ payload.length = 4) ∧
      (opcOf cmd = 0x2#4 → cmd.extractLsb' 10 6 = 0#6 ∧ imm16Of cmd = 0#16 ∧ payload.length = 0) ∧
      (opcOf cmd = 0x3#4 → arg8Of cmd = 0#8 ∧ imm16Of cmd = 0#16) ∧
      (opcOf cmd = 0x4#4 → arg8Of cmd = 0#8) ∧
      (opcOf cmd = 0x5#4 → arg8Of cmd = 0#8 ∧ payload.length = 0) ∧
      (opcOf cmd = 0x6#4 → arg8Of cmd = 0#8 ∧ imm16Of cmd = 0#16 ∧ payload.length = 0) ∧
      (opcOf cmd = 0x7#4 → imm16Of cmd = 0#16 ∧ payload.length = 0) ∧
      (opcOf cmd = 0x8#4 → arg8Of cmd = 0#8 ∧ imm16Of cmd = 0#16 ∧ payload.length = 0)) ∧
    ((∃ i, decode n { cmd := cmd, payload := payload } = .ok i) ↔ legal n { cmd := cmd, payload := payload } = true) ∧
    (∀ s : State, s.numSlots = n → legal n { cmd := cmd, payload := payload } = false →
      perform { cmd := cmd, payload := payload } s =
        .next { s with response := some { status := .errIllegal, data := 0, out := [] } })

/-- R75, R76, R78: decoding the encoding of any well-formed command gives it back, every operand at every value. -/
def Obligations.DecodeOfEncodeIsInstruction : Prop :=
  ∀ (n : Nat) (i : Instr), i.wf n = true → decode n (encode i) = .ok i

/-- R75, R83: a request that decodes is the encoding of what it decodes to, so each legal request has one reading: the
command is told from OPC alone, the slot is the SLOT field. -/
def Obligations.EncodeOfDecodeIsRequest : Prop :=
  ∀ (n : Nat) (r : Request) (i : Instr), decode n r = .ok i →
    encode i = r ∧ i.wf n = true ∧ i.opcode = opcOf r.cmd ∧ i.slot = slotOf r.cmd

/-- Words written out in the examples of the spec (R101, R104, R139, R140, R164, R165, R201, R105) decode to the commands
they stand for. -/
def Obligations.SpecWordsDecode : Prop :=
  decode 16 { cmd := 0x10210B01#32, payload := [0xFF, 0xFF, 0xFF, 0xFF] } =
      .ok (.construct 0 0x1021 .little true true 0xFFFF 0xFFFF) ∧
    decode 16 { cmd := 0x00000102#32, payload := [] } = .ok (.preset 0 .kermit) ∧
    decode 16 { cmd := 0x00000013#32, payload := [0x31] } = .ok (.checksum 1 [0x31]) ∧
    decode 16 { cmd := 0x31C30004#32, payload := [0x31, 0xC3] } = .ok (.update 0 0x31C3 [0x31, 0xC3]) ∧
    decode 16 { cmd := 0x21890005#32, payload := [] } = .ok (.toBytes 0 0x2189) ∧
    decode 16 { cmd := 0x00000006#32, payload := [] } = .ok (.buildTable 0) ∧
    decode 16 { cmd := 0x00000107#32, payload := [] } = .ok (.readTable 0 0x01) ∧
    decode 16 { cmd := 0x00000008#32, payload := [] } = .ok (.release 0)

/-- R77: OPC 0x0 and 0x9 to 0xF are illegal whatever else the request holds, the all-zero word among them, and are
answered ERR_ILLEGAL with nothing else changed. -/
def Obligations.ReservedOpcodesAreIllegal : Prop :=
  (∀ (s : State) (r : Request), ((opcOf r.cmd).toNat = 0 ∨ 9 ≤ (opcOf r.cmd).toNat) →
    legal s.numSlots r = false ∧
      perform r s = .next { s with response := some { status := .errIllegal, data := 0, out := [] } }) ∧
  (∀ (n : Nat) (payload : List Byte), legal n { cmd := 0x00000000#32, payload := payload } = false)

/-! ### Steps and requesters -/

/-- R56, R225: when the chosen request decodes to `i`, the step is `exec i` in the state in which the turn is taken, its
response given to the requester; when it does not decode, the step answers ERR_ILLEGAL. -/
def Obligations.StepRunsDecodedInstruction : Prop :=
  ∀ (s : State) (turn : Turn), s.choose = some turn →
    (∀ i, decode s.numSlots turn.request = .ok i →
      step s = deliver turn.requester (exec i (s.takeTurn turn))) ∧
    (∀ e, decode s.numSlots turn.request = .error e →
      step s = deliver turn.requester (raise .errIllegal (s.takeTurn turn)))

/-- The model's placement of an opcode-table word (log 9): the next step serves requester 0 with exactly that request,
whatever else is pending, and slots, bound and counters are as before. -/
def Obligations.FetchWordPerformedNext : Prop :=
  ∀ (s : State) (nbits w : Nat),
    (s.withFetchWord nbits w).choose =
      some { requester := 0, request := tableRequest nbits w, arbitration := s.arbitration, draws := s.draws } ∧
    (s.withFetchWord nbits w).slots = s.slots ∧ (s.withFetchWord nbits w).maxPayload = s.maxPayload

/-- R60, R231: a step can be chosen exactly when some requester has a pending request; what is chosen is the oldest
pending request of its requester; and every requester with a pending request can be the one chosen (by the arbitration
order, log 7). -/
def Obligations.ChoiceServesAnyPendingRequester : Prop :=
  (∀ s : State, s.choose = none ↔ ∀ q, s.pendingOf q = none) ∧
  (∀ (s : State) (turn : Turn), s.choose = some turn → s.pendingOf turn.requester = some turn.request) ∧
  (∀ (s : State) (q : Nat) (r : Request) (rest : List Nat), s.pendingOf q = some r →
    ({ s with arbitration := q :: rest } : State).choose =
      some { requester := q, request := r, arbitration := rest, draws := s.draws })

/-- R225, R231, R232: the chosen request is performed and answered in that one step. Exactly one request is answered,
the oldest pending one of the chosen requester, and the response is off the wire after it. -/
def Obligations.StepAnswersChosenRequester : Prop :=
  ∀ (s : State) (turn : Turn), s.choose = some turn →
    ∃ (u : State) (resp : Response),
      perform turn.request (s.takeTurn turn) = .next u ∧ u.response = some resp ∧
      step s = .next { u with
        requesters := s.requesters.modify turn.requester (answerOldest resp), response := none }

/-- The model's choice for a step with nothing pending (log 8): the block holds its state. -/
def Obligations.IdleBlockHoldsState : Prop :=
  ∀ s : State, (∀ q, s.pendingOf q = none) → step s = .next s

/-- R231, R237: with `n` requests pending, `n` steps answer all of them, whatever the choices. That the issue sequences
then hold the same requests in the same order, none lost, rests also on the model's choice to keep answered requests in
them (DESIGN CHOICE, log 10). -/
def Obligations.PendingRequestsAllAnswered : Prop :=
  ∀ s : State, ∃ t : State, Sys2Proof.core.run s.pendingCount s = .next t ∧ t.pendingCount = 0 ∧
    t.issuedRequests = s.issuedRequests

/-- The model's choice (DESIGN CHOICE, log 10), over the issue sequences of R36: an answered request stays in its sequence,
and the response it was given stays with it. -/
def Obligations.AnsweredRequestsNeverChange : Prop :=
  ∀ (s t : State), step s = .next t →
    ∀ (q : Nat) (seq : List Issued) (j : Nat) (e : Issued), s.requesters[q]? = some seq → seq[j]? = some e →
      e.response ≠ none → ∃ seq', t.requesters[q]? = some seq' ∧ seq'[j]? = some e

/-- Every step keeps the invariant: slot and requester counts in their bounds (R7, R8), every built table the table of
its configuration (R34), empty slots UNBUILT (R263), responses in issue order and well shaped (R80, R221, R232), nothing
in flight (R36). -/
def Obligations.StepKeepsInvariant : Prop :=
  ∀ (s t : State), Inv s → step s = .next t → Inv t

/-- The invariant holds at reset, for every choice of the parameters, and the two inputs of the outside world, the reset
event and an issued request, keep it. (The reset values it holds with are log 1 to log 3.) -/
def Obligations.ResetMeetsInvariant : Prop :=
  Inv State.reset ∧ (∀ c : Config, c.wf → Inv (State.resetOf c)) ∧ (∀ s : State, Inv s → Inv s.resetEvent) ∧
    (∀ (s : State) (q : Nat) (r : Request), Inv s → Inv (s.issue q r))

/-- R226, R228, R237: from any state that meets the invariant, a run of any length stops at no fault and no refusal and
ends in a state that meets it. -/
def Obligations.RunsStaySafe : Prop :=
  ∀ (n : Nat) (s : State), Inv s → SafeRun n s

/-- R20: NUM_SLOTS, NUM_REQUESTERS and MAX_PAYLOAD are parameters: no step changes them. -/
def Obligations.StepKeepsParameters : Prop :=
  ∀ (s t : State), step s = .next t →
    t.numSlots = s.numSlots ∧ t.numRequesters = s.numRequesters ∧ t.maxPayload = s.maxPayload

/-- R260: the reset event leaves every slot without an engine and UNBUILT, and empties every issue sequence; requests
pending at it get no response. -/
def Obligations.ResetEventEmptiesBlock : Prop :=
  ∀ s : State,
    (∀ sl ∈ s.resetEvent.slots, sl.valid = false ∧ sl.tstate = .unbuilt) ∧
    (∀ seq ∈ s.resetEvent.requesters, seq = []) ∧ s.resetEvent.response = none ∧
    s.resetEvent.numSlots = s.numSlots ∧ s.resetEvent.numRequesters = s.numRequesters ∧
    s.resetEvent.maxPayload = s.maxPayload

/-- R261, R262: after reset, with any parameters, every legal request within the length bound other than CONSTRUCT and
PRESET is answered ERR_NO_INSTANCE. -/
def Obligations.OnlyCreationSucceedsAfterReset : Prop :=
  ∀ (c : Config) (r : Request), legal c.numSlots r = true → opcOf r.cmd ≠ 0x1#4 → opcOf r.cmd ≠ 0x2#4 →
    ¬ ((opcOf r.cmd = 0x3#4 ∨ opcOf r.cmd = 0x4#4) ∧ tooLong c.maxPayload r.payload = true) →
    perform r (State.resetOf c) =
      .next { State.resetOf c with response := some { status := .errNoInstance, data := 0, out := [] } }

/-! ### Where each command completes, and its frame -/

/-- R101, R102: CONSTRUCT on any slot, occupied or not, loads all six fields, sets VALID and clears TSTATE, answers OK,
and changes nothing else. (The table contents are unspecified, R27.) -/
def Obligations.ConstructBeginsEngine : Prop :=
  ∀ (s : State) (k : BitVec 4) (poly : Word) (bord : ByteOrder) (refout refin : Bool) (init xorout : Word),
    k.toNat < s.numSlots →
    ∃ t sl, exec (.construct k poly bord refout refin init xorout) s = .next t ∧ t.slots[k.toNat]? = some sl ∧
      sl.valid = true ∧ sl.tstate = .unbuilt ∧ sl.cfg.poly = poly ∧ sl.cfg.init = init ∧ sl.cfg.refin = refin ∧
      sl.cfg.refout = refout ∧ sl.cfg.xorout = xorout ∧ sl.cfg.bord = bord ∧
      t.response = some { status := .ok, data := 0, out := [] } ∧ OnlySlot k s t

/-- R103, R104: PRESET on any slot loads the row of the preset ROM, sets VALID and clears TSTATE, answers OK, and changes
nothing else. -/
def Obligations.PresetBeginsEngine : Prop :=
  ∀ (s : State) (k : BitVec 4) (id : PresetId), k.toNat < s.numSlots →
    ∃ t sl, exec (.preset k id) s = .next t ∧ t.slots[k.toNat]? = some sl ∧
      sl.valid = true ∧ sl.tstate = .unbuilt ∧
      sl.cfg =
        (match id with
        | .xmodem => { poly := 0x1021, init := 0x0000, refin := false, refout := false, xorout := 0, bord := .big }
        | .kermit => { poly := 0x1021, init := 0x0000, refin := true, refout := true, xorout := 0, bord := .little }
        | .ccittFalse => { poly := 0x1021, init := 0xFFFF, refin := false, refout := false, xorout := 0, bord := .big }
        | .modbus => { poly := 0x8005, init := 0xFFFF, refin := true, refout := true, xorout := 0, bord := .little }) ∧
      t.response = some { status := .ok, data := 0, out := [] } ∧ OnlySlot k s t

/-- R104: PRESET is CONSTRUCT with the six values of its ROM row. -/
def Obligations.PresetEqualsConstruct : Prop :=
  ∀ (s : State) (k : BitVec 4),
    exec (.preset k .xmodem) s = exec (.construct k 0x1021 .big false false 0x0000 0x0000) s ∧
    exec (.preset k .kermit) s = exec (.construct k 0x1021 .little true true 0x0000 0x0000) s ∧
    exec (.preset k .ccittFalse) s = exec (.construct k 0x1021 .big false false 0xFFFF 0x0000) s ∧
    exec (.preset k .modbus) s = exec (.construct k 0x8005 .little true true 0xFFFF 0x0000) s

/-- R105: RELEASE of a live slot clears VALID and TSTATE, answers OK, and changes nothing else. (The other fields of the
slot become unspecified.) -/
def Obligations.ReleaseEndsEngine : Prop :=
  ∀ (s : State) (k : BitVec 4) (sl : Slot), s.slots[k.toNat]? = some sl → sl.valid = true →
    ∃ t sl', exec (.release k) s = .next t ∧ t.slots[k.toNat]? = some sl' ∧ sl'.valid = false ∧ sl'.tstate = .unbuilt ∧
      t.response = some { status := .ok, data := 0, out := [] } ∧ OnlySlot k s t

/-- R164: CHECKSUM on a live slot builds the table if need be, feeds the data from INIT, applies the output transform,
answers OK with the CRC, and writes nothing but T and TSTATE. -/
def Obligations.ChecksumAnswersCrc : Prop :=
  ∀ (s : State) (k : BitVec 4) (sl : Slot) (data : List Byte), s.slots[k.toNat]? = some sl → sl.valid = true →
    sl.faithful → tooLong s.maxPayload data = false →
    ∃ t sl', exec (.checksum k data) s = .next t ∧ t.slots[k.toNat]? = some sl' ∧
      sl' = { sl with table := build sl.cfg.poly sl.cfg.refin, tstate := .built } ∧
      t.response = some { status := .ok, data := outX sl.cfg (feed sl' sl.cfg.init data), out := [] } ∧
      OnlySlot k s t ∧ t.draws = s.draws

/-- R165: UPDATE on a live slot does the same from the undone previous CRC, whatever 16-bit value that is; INIT is not
read. -/
def Obligations.UpdateAnswersCrc : Prop :=
  ∀ (s : State) (k : BitVec 4) (sl : Slot) (prev : Word) (data : List Byte), s.slots[k.toNat]? = some sl →
    sl.valid = true → sl.faithful → tooLong s.maxPayload data = false →
    ∃ t sl', exec (.update k prev data) s = .next t ∧ t.slots[k.toNat]? = some sl' ∧
      sl' = { sl with table := build sl.cfg.poly sl.cfg.refin, tstate := .built } ∧
      t.response = some { status := .ok, data := outX sl.cfg (feed sl' (unOutX sl.cfg prev) data), out := [] } ∧
      OnlySlot k s t ∧ t.draws = s.draws

/-- R200, R201: TO_BYTES on a live slot answers OK with the bytes of the value in the slot's order, or with none, and
changes no state at all (it does not build the table). -/
def Obligations.ToBytesAnswersBytes : Prop :=
  ∀ (s : State) (k : BitVec 4) (sl : Slot) (value : Word), s.slots[k.toNat]? = some sl → sl.valid = true →
    exec (.toBytes k value) s = .next { s with
      response := some
        { status := .ok, data := 0
          out :=
            match sl.cfg.bord with
            | .none => []
            | .big => [value.extractLsb' 8 8, value.extractLsb' 0 8]
            | .little => [value.extractLsb' 0 8, value.extractLsb' 8 8] } }

/-- R137, R139: BUILD_TABLE on a live slot leaves its table built, answers OK, and writes nothing but T and TSTATE. -/
def Obligations.BuildTableBuildsTable : Prop :=
  ∀ (s : State) (k : BitVec 4) (sl : Slot), s.slots[k.toNat]? = some sl → sl.valid = true → sl.faithful →
    ∃ t, exec (.buildTable k) s = .next t ∧
      t.slots[k.toNat]? = some { sl with table := build sl.cfg.poly sl.cfg.refin, tstate := .built } ∧
      t.response = some { status := .ok, data := 0, out := [] } ∧ OnlySlot k s t ∧ t.draws = s.draws

/-- R137, R140: READ_TABLE on a live slot builds the table if need be and answers OK with the entry, at every index. -/
def Obligations.ReadTableAnswersEntry : Prop :=
  ∀ (s : State) (k : BitVec 4) (sl : Slot) (index : Byte), s.slots[k.toNat]? = some sl → sl.valid = true →
    sl.faithful →
    ∃ t, exec (.readTable k index) s = .next t ∧
      t.slots[k.toNat]? = some { sl with table := build sl.cfg.poly sl.cfg.refin, tstate := .built } ∧
      t.response = some { status := .ok, data := (build sl.cfg.poly sl.cfg.refin)[index.toNat]'index.isLt, out := [] } ∧
      OnlySlot k s t ∧ t.draws = s.draws

/-! ### Error responses -/

/-- R222: ERR_ILLEGAL is answered exactly when `legal` is false, whatever the block's state. -/
def Obligations.IllegalExactlyWhenNotLegal : Prop :=
  ∀ (s : State) (r : Request),
    (∃ t resp, perform r s = .next t ∧ t.response = some resp ∧ resp.status = .errIllegal) ↔ legal s.numSlots r = false

/-- R223: ERR_NO_INSTANCE is answered exactly to a legal request, not CONSTRUCT or PRESET, whose slot holds no engine
(and which has not failed the length check, which comes first, R225). -/
def Obligations.NoInstanceExactlyWhenEmpty : Prop :=
  ∀ (s : State) (r : Request),
    (∃ t resp, perform r s = .next t ∧ t.response = some resp ∧ resp.status = .errNoInstance) ↔
      legal s.numSlots r = true ∧ opcOf r.cmd ≠ 0x1#4 ∧ opcOf r.cmd ≠ 0x2#4 ∧
      ¬ ((opcOf r.cmd = 0x3#4 ∨ opcOf r.cmd = 0x4#4) ∧ tooLong s.maxPayload r.payload = true) ∧
      ∃ sl, s.slots[(slotOf r.cmd).toNat]? = some sl ∧ sl.valid = false

/-- R224: ERR_LENGTH is answered exactly to a legal CHECKSUM or UPDATE whose payload exceeds a bound; with UNBOUNDED it
never is. -/
def Obligations.LengthErrorExactlyAboveBound : Prop :=
  (∀ (s : State) (r : Request),
    (∃ t resp, perform r s = .next t ∧ t.response = some resp ∧ resp.status = .errLength) ↔
      legal s.numSlots r = true ∧ (opcOf r.cmd = 0x3#4 ∨ opcOf r.cmd = 0x4#4) ∧
      ∃ bound, s.maxPayload = some bound ∧ bound < r.payload.length) ∧
  (∀ (s t : State) (r : Request) (resp : Response), s.maxPayload = none → perform r s = .next t →
    t.response = some resp → resp.status ≠ .errLength)

/-- R226: a request that passes the three checks of R225 answers OK: any polynomial, initial value, mask, flags, byte
order, previous CRC, index and data, an empty payload among them. -/
def Obligations.PassingRequestsAnswerOk : Prop :=
  ∀ (s : State) (r : Request), legal s.numSlots r = true →
    ¬ ((opcOf r.cmd = 0x3#4 ∨ opcOf r.cmd = 0x4#4) ∧ tooLong s.maxPayload r.payload = true) →
    (opcOf r.cmd = 0x1#4 ∨ opcOf r.cmd = 0x2#4 ∨
      ∃ sl, s.slots[(slotOf r.cmd).toNat]? = some sl ∧ sl.valid = true) →
    ∃ t resp, perform r s = .next t ∧ t.response = some resp ∧ resp.status = .ok

/-- R221: an error response has DATA 0 and no bytes, and the request that caused it changes no state: with the response
taken off the wire, the state is the one before. -/
def Obligations.ErrorResponsesChangeNothing : Prop :=
  ∀ (s t : State) (r : Request) (resp : Response), perform r s = .next t → t.response = some resp →
    resp.status ≠ .ok → resp.data = 0 ∧ resp.out = [] ∧ { t with response := s.response } = s

/-- R225: the checks run in the order ERR_ILLEGAL, ERR_LENGTH, ERR_NO_INSTANCE, and a request that passes them is its
command. -/
def Obligations.ChecksRunInOrder : Prop :=
  ∀ (s : State) (r : Request),
    (legal s.numSlots r = false → perform r s = raise .errIllegal s) ∧
    (∀ i, decode s.numSlots r = .ok i → tooLong s.maxPayload i.data = true → perform r s = raise .errLength s) ∧
    (∀ i sl, decode s.numSlots r = .ok i → tooLong s.maxPayload i.data = false → i.creates = false →
      s.slots[i.slot.toNat]? = some sl → sl.valid = false → perform r s = raise .errNoInstance s) ∧
    (∀ i, decode s.numSlots r = .ok i → perform r s = exec i s)

/-- R80: a response has 0 or 2 bytes, 2 exactly in an OK response to TO_BYTES whose slot has a byte order; DATA is 0 in
every error response and in every response but those of CHECKSUM, UPDATE and READ_TABLE. -/
def Obligations.ResponseShape : Prop :=
  ∀ (s t : State) (r : Request) (resp : Response), perform r s = .next t → t.response = some resp →
    (resp.out = [] ∨ resp.out.length = 2) ∧
    (resp.out.length = 2 ↔ resp.status = .ok ∧ opcOf r.cmd = 0x5#4 ∧
      ∃ sl, s.slots[(slotOf r.cmd).toNat]? = some sl ∧ sl.cfg.bord ≠ .none) ∧
    (resp.status ≠ .ok ∨ (opcOf r.cmd ≠ 0x3#4 ∧ opcOf r.cmd ≠ 0x4#4 ∧ opcOf r.cmd ≠ 0x7#4) → resp.data = 0)

/-- R81: the packed word has STATUS, zeros, OUTV and DATA in their places, and with the bytes after it carries the same
information as the triple. -/
def Obligations.PackedResponseCarriesSame : Prop :=
  (∀ r : Response, (r.out = [] ∨ r.out.length = 2) →
    (packResponse r).extractLsb' 28 4 = r.status.code ∧ (packResponse r).extractLsb' 17 11 = 0#11 ∧
    ((packResponse r).getLsbD 16 = true ↔ r.out.length = 2) ∧ (packResponse r).extractLsb' 0 16 = r.data ∧
    unpackResponse (packResponse r) r.out = some r) ∧
  (∀ (resp : CmdWord) (out : List Byte) (r : Response), unpackResponse resp out = some r →
    packResponse r = resp ∧ r.out = out)

/-! ### Reversal and tables -/

/-- R130, R131: bit 7-j of rev8 is bit j, bit 15-j of rev16 is bit j, both are involutions; with the examples of the
rules (rev16 is no byte swap). -/
def Obligations.ReversalsSwapBits : Prop :=
  (∀ (x : Byte) (j : Nat), j < 8 → (rev8 x).getLsbD (7 - j) = x.getLsbD j) ∧ (∀ x : Byte, rev8 (rev8 x) = x) ∧
  (∀ (x : Word) (j : Nat), j < 16 → (rev16 x).getLsbD (15 - j) = x.getLsbD j) ∧ (∀ x : Word, rev16 (rev16 x) = x) ∧
  (rev8 0x01 = 0x80 ∧ rev8 0x12 = 0x48 ∧ rev8 0x0F = 0xF0 ∧ rev8 0xA5 = 0xA5) ∧
  (rev16 0x0001 = 0x8000 ∧ rev16 0x1021 = 0x8408 ∧ rev16 0x8005 = 0xA001 ∧ rev16 0x00FF = 0xFF00 ∧
    rev16 0x1234 = 0x2C48)

/-- R132 to R135: every entry of the normal table is eight shifts of the index in the high byte; every entry of the
reflected table is the reversal of eight shifts of the reversed index, with the polynomial itself as the mask; with the
worked examples. -/
def Obligations.TableEntriesFollowBuilds : Prop :=
  (∀ (poly : Word) (i : Byte),
    (build poly false)[i.toNat]'i.isLt =
      (fun r : Word => if r.getLsbD 15 = true then (r <<< 1) ^^^ poly else r <<< 1)^[8] (i.zeroExtend 16 <<< 8) ∧
    (build poly true)[i.toNat]'i.isLt =
      rev16 ((fun r : Word => if r.getLsbD 15 = true then (r <<< 1) ^^^ poly else r <<< 1)^[8]
        ((rev8 i).zeroExtend 16 <<< 8))) ∧
  (∀ r poly : Word,
    step8 r poly = (fun r : Word => if r.getLsbD 15 = true then (r <<< 1) ^^^ poly else r <<< 1)^[8] r) ∧
  (build 0x1021 false)[1] = 0x1021 ∧ (build 0x1021 true)[1] = 0x1189

/-- R137: on an UNBUILT slot the lazy build is the loop that writes all 256 entries and then sets TSTATE; on a BUILT slot
it does nothing; so it is idempotent. -/
def Obligations.LazyBuildIsTheWriteLoop : Prop :=
  (∀ sl : Slot, sl.tstate = .unbuilt →
    ensureTable sl =
      { ((List.range 256).foldl
          (fun a i => tWrite a (BitVec.ofNat 8 i)
            ((build sl.cfg.poly sl.cfg.refin)[(BitVec.ofNat 8 i).toNat]'(BitVec.ofNat 8 i).isLt)) sl) with
        tstate := .built }) ∧
  (∀ sl : Slot, sl.tstate = .built → ensureTable sl = sl) ∧
  (∀ sl : Slot, ensureTable (ensureTable sl) = ensureTable sl)

/-- R136: two engines with the same POLY and REFIN have equal tables once built, whatever their other fields, in the same
block or in two. -/
def Obligations.TableDependsOnPolyAndRefin : Prop :=
  ∀ (s s' : State) (k k' : BitVec 4) (sl sl' : Slot), s.slots[k.toNat]? = some sl → s'.slots[k'.toNat]? = some sl' →
    sl.valid = true → sl'.valid = true → sl.faithful → sl'.faithful →
    sl.cfg.poly = sl'.cfg.poly → sl.cfg.refin = sl'.cfg.refin →
    ∃ t t' b b', exec (.buildTable k) s = .next t ∧ exec (.buildTable k') s' = .next t' ∧
      t.slots[k.toNat]? = some b ∧ t'.slots[k'.toNat]? = some b' ∧ b.table = b'.table

/-- R141: while an engine lives, a built table is never written again, and an unbuilt one is written only by the whole
lazy build. -/
def Obligations.BuiltTableIsReadOnly : Prop :=
  ∀ (i : Instr) (s t : State) (j : Nat) (sl : Slot), exec i s = .next t → s.slots[j]? = some sl →
    ¬ (i.reconfigures = true ∧ j = i.slot.toNat) →
    ∃ sl', t.slots[j]? = some sl' ∧ (sl.tstate = .built → sl'.table = sl.table ∧ sl'.tstate = .built) ∧
      (sl.tstate = .unbuilt → sl' = sl ∨ sl' = ensureTable sl)

/-- R142 (a), (b), (d): entry 0 is 0, tables are linear over XOR, a normal table has POLY at 1. -/
def Obligations.TablesAreLinear : Prop :=
  ∀ (sl : Slot) (poly : Word) (refin : Bool), sl.table = build poly refin →
    tRead sl 0 = 0 ∧ (∀ a b : Byte, tRead sl (a ^^^ b) = tRead sl a ^^^ tRead sl b) ∧
    (refin = false → tRead sl 1 = poly)

/-- R142 (c), which the spec marks as general knowledge: the reflected table is the table of an LSB-first register with
the mask rev16(POLY). -/
def Obligations.ReflectedTableIsLsbFirst : Prop :=
  ∀ (sl : Slot) (poly : Word), sl.table = build poly true → ∀ i : Byte,
    tRead sl i =
      (fun r : Word => if r.getLsbD 0 = true then (r >>> 1) ^^^ rev16 poly else r >>> 1)^[8] (i.zeroExtend 16)

/-! ### The pipeline -/

/-- R160: the feed loop, byte by byte in index order; with REFIN = 1 it runs between two reversals, with an empty payload
it is nothing. -/
def Obligations.FeedFollowsLoop : Prop :=
  ∀ (sl : Slot) (r : Word),
    feed sl r [] = r ∧
    (∀ (b : Byte) (data : List Byte), sl.cfg.refin = false →
      feed sl r (b :: data) = feed sl (tRead sl (r.extractLsb' 8 8 ^^^ b) ^^^ (r <<< 8)) data) ∧
    (∀ (b : Byte) (data : List Byte), sl.cfg.refin = true →
      feed sl r (b :: data) =
        feed sl (rev16 (tRead sl ((rev16 r).extractLsb' 0 8 ^^^ b) ^^^ (rev16 r >>> 8))) data)

/-- R161, R162: the output transform reflects if REFOUT, then XORs, whatever REFIN is; the inverse XORs, then reflects;
each undoes the other. -/
def Obligations.OutputTransformsInverse : Prop :=
  ∀ (cfg : Configuration) (v : Word),
    (cfg.refout = true → outX cfg v = rev16 v ^^^ cfg.xorout ∧ unOutX cfg v = rev16 (v ^^^ cfg.xorout)) ∧
    (cfg.refout = false → outX cfg v = v ^^^ cfg.xorout ∧ unOutX cfg v = v ^^^ cfg.xorout) ∧
    unOutX cfg (outX cfg v) = v ∧ outX cfg (unOutX cfg v) = v

/-- R103: the four presets hold exactly the values of the table and give its check values for "123456789". -/
def Obligations.PresetCheckValues : Prop :=
  (presetRom .xmodem =
      { poly := 0x1021, init := 0x0000, refin := false, refout := false, xorout := 0x0000, bord := .big } ∧
    presetRom .kermit =
      { poly := 0x1021, init := 0x0000, refin := true, refout := true, xorout := 0x0000, bord := .little } ∧
    presetRom .ccittFalse =
      { poly := 0x1021, init := 0xFFFF, refin := false, refout := false, xorout := 0x0000, bord := .big } ∧
    presetRom .modbus =
      { poly := 0x8005, init := 0xFFFF, refin := true, refout := true, xorout := 0x0000, bord := .little }) ∧
  ∀ (s : State) (k : BitVec 4) (id : PresetId), k.toNat < s.numSlots →
    tooLong s.maxPayload [0x31, 0x32, 0x33, 0x34, 0x35, 0x36, 0x37, 0x38, 0x39] = false →
    ∃ t u, exec (.preset k id) s = .next t ∧
      exec (.checksum k [0x31, 0x32, 0x33, 0x34, 0x35, 0x36, 0x37, 0x38, 0x39]) t = .next u ∧
      u.response = some
        { status := .ok
          data :=
            match id with
            | .xmodem => 0x31C3
            | .kermit => 0x2189
            | .ccittFalse => 0x29B1
            | .modbus => 0x4B37
          out := [] }

/-- R167: UPDATE composes with CHECKSUM, and UPDATE of nothing is the previous value, for every configuration (the
REFIN ≠ REFOUT ones, which the source never ran, among them: log 11). -/
def Obligations.UpdateComposesWithChecksum : Prop :=
  ∀ (s : State) (k : BitVec 4) (sl : Slot) (a b : List Byte), s.slots[k.toNat]? = some sl → sl.valid = true →
    sl.faithful → tooLong s.maxPayload (a ++ b) = false →
    (∃ v w t u x, exec (.checksum k a) s = .next t ∧ t.response = some { status := .ok, data := v, out := [] } ∧
      exec (.update k v b) t = .next u ∧ u.response = some { status := .ok, data := w, out := [] } ∧
      exec (.checksum k (a ++ b)) s = .next x ∧ x.response = some { status := .ok, data := w, out := [] }) ∧
    (∀ c : Word, ∃ t, exec (.update k c []) s = .next t ∧ t.response = some { status := .ok, data := c, out := [] })

/-- R168 (a), (b): with REFIN = REFOUT and the byte order that matches, feeding a message's own serialized CRC to UPDATE
gives a constant of the configuration, whatever the message, the slot and the block; it is 0 when XOROUT is 0. ((a) is
marked general knowledge in the spec.) -/
def Obligations.AppendedCrcGivesConstant : Prop :=
  ∀ cfg : Configuration,
    ((cfg.refin = false ∧ cfg.refout = false ∧ cfg.bord = .big) ∨
      (cfg.refin = true ∧ cfg.refout = true ∧ cfg.bord = .little)) →
    ∃ c : Word, (cfg.xorout = 0 → c = 0) ∧
      ∀ (s : State) (k : BitVec 4) (sl : Slot) (m : List Byte), s.slots[k.toNat]? = some sl → sl.valid = true →
        sl.faithful → sl.cfg = cfg → tooLong s.maxPayload m = false → tooLong s.maxPayload [0, 0] = false →
        ∃ v out t u w, exec (.checksum k m) s = .next t ∧
          t.response = some { status := .ok, data := v, out := [] } ∧
          exec (.toBytes k v) t = .next u ∧ u.response = some { status := .ok, data := 0, out := out } ∧
          exec (.update k v out) u = .next w ∧ w.response = some { status := .ok, data := c, out := [] }

/-- R53, R132 to R135, R160: with a built table, the table-driven feed is the bit-serial division: each byte, reversed
exactly when REFIN = 1, enters the high half of the register, which then shifts eight times. -/
def Obligations.TableFeedIsBitSerial : Prop :=
  ∀ (sl : Slot), sl.table = build sl.cfg.poly sl.cfg.refin → ∀ (r : Word) (data : List Byte),
    feed sl r data =
      data.foldl
        (fun v b =>
          (fun r : Word => if r.getLsbD 15 = true then (r <<< 1) ^^^ sl.cfg.poly else r <<< 1)^[8]
            (v ^^^ ((if sl.cfg.refin = true then rev8 b else b).zeroExtend 16 <<< 8))) r

/-! ### The serializer -/

/-- R202, R203: the two bytes of TO_BYTES, read in the configured order, give the value back; there are none exactly when
no order is configured. -/
def Obligations.SerializationRoundTrips : Prop :=
  ∀ (s : State) (k : BitVec 4) (sl : Slot) (value : Word), s.slots[k.toNat]? = some sl → sl.valid = true →
    ∃ t out, exec (.toBytes k value) s = .next t ∧ t.response = some { status := .ok, data := 0, out := out } ∧
      (sl.cfg.bord = .big → ∃ b0 b1, out = [b0, b1] ∧ word16 b0 b1 = value) ∧
      (sl.cfg.bord = .little → ∃ b0 b1, out = [b0, b1] ∧ word16 b1 b0 = value) ∧
      (out = [] ↔ sl.cfg.bord = .none) ∧ (sl.cfg.bord ≠ .none → out.length = 2)

/-! ### Slots and hidden state -/

/-- R263: the three lifecycle states; the lifecycle of the slot a command acts on, row by row; a request with an error
status, an illegal one among them, leaves every slot as it was. -/
def Obligations.LifecycleFollowsTable : Prop :=
  (∀ sl : Slot,
    (sl.lifecycle = .empty ↔ sl.valid = false) ∧
    (sl.lifecycle = .liveUnbuilt ↔ sl.valid = true ∧ sl.tstate = .unbuilt) ∧
    (sl.lifecycle = .liveBuilt ↔ sl.valid = true ∧ sl.tstate = .built)) ∧
  (∀ (i : Instr) (s : State) (sl : Slot), s.slots[i.slot.toNat]? = some sl →
    ∃ t sl' resp, exec i s = .next t ∧ t.slots[i.slot.toNat]? = some sl' ∧ t.response = some resp ∧
      (resp.status = .ok → sl'.lifecycle =
        match i with
        | .construct _ _ _ _ _ _ _ | .preset _ _ => .liveUnbuilt
        | .checksum _ _ | .update _ _ _ | .buildTable _ | .readTable _ _ => .liveBuilt
        | .toBytes _ _ => sl.lifecycle
        | .release _ => .empty) ∧
      (resp.status ≠ .ok → sl' = sl) ∧
      (i.creates = true → resp.status = .ok) ∧
      (i.creates = false → tooLong s.maxPayload i.data = false → sl.lifecycle ≠ .empty → resp.status = .ok) ∧
      (i.creates = false → tooLong s.maxPayload i.data = false → sl.lifecycle = .empty →
        resp.status = .errNoInstance ∧ sl' = sl)) ∧
  (∀ (s t : State) (r : Request) (resp : Response), perform r s = .next t → t.response = some resp →
    resp.status ≠ .ok → t.slots = s.slots)

/-- R106: no command touches another slot; equally configured slots each build their own table, and the two are equal; a
command's response depends on no other slot. -/
def Obligations.SlotsAreIndependent : Prop :=
  (∀ (i : Instr) (s : State), ∃ t, exec i s = .next t ∧ OnlySlot i.slot s t) ∧
  (∀ (s : State) (j k : BitVec 4) (a b : Slot), j ≠ k → s.slots[j.toNat]? = some a → s.slots[k.toNat]? = some b →
    a.valid = true → b.valid = true → a.tstate = .unbuilt → b.tstate = .unbuilt → a.cfg = b.cfg →
    ∃ t u a' b', exec (.buildTable j) s = .next t ∧ t.slots[k.toNat]? = some b ∧ exec (.buildTable k) t = .next u ∧
      u.slots[j.toNat]? = some a' ∧ u.slots[k.toNat]? = some b' ∧ a'.table = b'.table) ∧
  (∀ (i : Instr) (s s' : State), s.slots[i.slot.toNat]? = s'.slots[i.slot.toNat]? → s.maxPayload = s'.maxPayload →
    ∃ t t', exec i s = .next t ∧ exec i s' = .next t' ∧ t.response = t'.response)

/-- R34 (and I2, I3): no response tells apart two states that differ in TSTATE, in tables not yet built, or in the fields
of empty slots; and no command makes them tellable. -/
def Obligations.HiddenStateUnobservable : Prop :=
  ∀ (i : Instr) (s s' : State), Alike s s' →
    ∃ t t', exec i s = .next t ∧ exec i s' = .next t' ∧ t.response = t'.response ∧ Alike t t'

/-- R61: two requests on one slot, neither CONSTRUCT, PRESET nor RELEASE, get the same responses in either order. -/
def Obligations.TableUsersCommute : Prop :=
  ∀ (s : State) (r₁ r₂ : Request), slotOf r₁.cmd = slotOf r₂.cmd →
    (∀ c ∈ [0x1#4, 0x2#4, 0x8#4], opcOf r₁.cmd ≠ c ∧ opcOf r₂.cmd ≠ c) →
    ∃ t₁ t₂ u₁ u₂, perform r₁ s = .next t₁ ∧ perform r₂ t₁ = .next t₂ ∧ perform r₂ s = .next u₂ ∧
      perform r₁ u₂ = .next u₁ ∧ t₁.response = u₁.response ∧ t₂.response = u₂.response

/-- R30, R102: the configuration of a live engine changes only when CONSTRUCT, PRESET or RELEASE names its slot. -/
def Obligations.ConfigurationNeverMutated : Prop :=
  ∀ (i : Instr) (s t : State) (j : Nat) (sl : Slot), exec i s = .next t → s.slots[j]? = some sl →
    ¬ (i.reconfigures = true ∧ j = i.slot.toNat) →
    ∃ sl', t.slots[j]? = some sl' ∧ sl'.cfg = sl.cfg ∧ sl'.valid = sl.valid

/-- R59: CONSTRUCT and PRESET twice leave what once leaves (up to the table contents, which are unspecified: log 4);
RELEASE twice leaves what once leaves, and the second is answered ERR_NO_INSTANCE; the other commands answer the same
twice. -/
def Obligations.RepeatedCommands : Prop :=
  (∀ (i : Instr) (s : State), i.creates = true → i.wf s.numSlots = true →
    ∃ t u, exec i s = .next t ∧ exec i t = .next u ∧ u.response = t.response ∧
      u.slots.map (fun sl => (sl.valid, sl.cfg, sl.tstate)) = t.slots.map (fun sl => (sl.valid, sl.cfg, sl.tstate))) ∧
  (∀ (s : State) (k : BitVec 4) (sl : Slot), s.slots[k.toNat]? = some sl → sl.valid = true →
    ∃ t u, exec (.release k) s = .next t ∧ exec (.release k) t = .next u ∧
      u = { t with response := some { status := .errNoInstance, data := 0, out := [] } }) ∧
  (∀ (i : Instr) (s : State), i.reconfigures = false →
    ∃ t u, exec i s = .next t ∧ exec i t = .next u ∧ u = t)

/-! ### The assembler -/

/-- R85: the line a command is written as assembles to the request that encodes it. -/
def Obligations.AssembledLineIsEncoding : Prop :=
  ∀ i : Instr, (lineOf (tokensOf i)).map encode = some (encode i)

/-- R85: CONSTRUCT's keywords may appear in any order. -/
def Obligations.ConstructKeywordsInAnyOrder : Prop :=
  ∀ (k : BitVec 4) (args args' : List (Keyword × Token)), args.Perm args' →
    constructLine k args = constructLine k args'
end

