-- ==== Sys2Proof/Laws/Encoding.lean ====
section
/-! SUPPORT. The fields of a packed command word, and the small inverses the encoder and decoder are built from. -/

namespace Sys2Proof

/-- Every bit of a packed command word, by the field it lies in (R75). -/
theorem getLsbD_packCmd (imm16 : Word) (arg8 : Byte) (slot opc : BitVec 4) (i : Nat) :
    (packCmd imm16 arg8 slot opc).getLsbD i =
      if i < 4 then opc.getLsbD i
      else if i < 8 then slot.getLsbD (i - 4)
      else if i < 16 then arg8.getLsbD (i - 8)
      else imm16.getLsbD (i - 16) := by
  simp only [packCmd, BitVec.getLsbD_append]
  have h₁ : i - 4 - 4 = i - 8 := by omega
  have h₂ : i - 8 - 8 = i - 16 := by omega
  rw [h₁, h₂]
  split_ifs <;> first | rfl | omega

@[simp] theorem opcOf_packCmd (imm16 : Word) (arg8 : Byte) (slot opc : BitVec 4) :
    opcOf (packCmd imm16 arg8 slot opc) = opc := by
  apply BitVec.eq_of_getLsbD_eq
  intro i hi
  simp [opcOf, getLsbD_packCmd, hi]

@[simp] theorem slotOf_packCmd (imm16 : Word) (arg8 : Byte) (slot opc : BitVec 4) :
    slotOf (packCmd imm16 arg8 slot opc) = slot := by
  apply BitVec.eq_of_getLsbD_eq
  intro i hi
  have : 4 + i < 8 := by omega
  simp [slotOf, getLsbD_packCmd, hi, this]

@[simp] theorem extract_arg8_packCmd (imm16 : Word) (arg8 : Byte) (slot opc : BitVec 4) (lo n : Nat) (h : lo + n ≤ 8) :
    (packCmd imm16 arg8 slot opc).extractLsb' (8 + lo) n = arg8.extractLsb' lo n := by
  apply BitVec.eq_of_getLsbD_eq
  intro i hi
  have h₁ : ¬ 8 + lo + i < 4 := by omega
  have h₂ : ¬ 8 + lo + i < 8 := by omega
  have h₃ : 8 + lo + i < 16 := by omega
  have h₄ : 8 + lo + i - 8 = lo + i := by omega
  simp [getLsbD_packCmd, hi, h₁, h₂, h₃, h₄]

@[simp] theorem arg8Of_packCmd (imm16 : Word) (arg8 : Byte) (slot opc : BitVec 4) :
    arg8Of (packCmd imm16 arg8 slot opc) = arg8 := by
  have h := extract_arg8_packCmd imm16 arg8 slot opc 0 8 (by omega)
  simpa [arg8Of] using h

@[simp] theorem imm16Of_packCmd (imm16 : Word) (arg8 : Byte) (slot opc : BitVec 4) :
    imm16Of (packCmd imm16 arg8 slot opc) = imm16 := by
  apply BitVec.eq_of_getLsbD_eq
  intro i hi
  have h₁ : ¬ 16 + i < 4 := by omega
  have h₂ : ¬ 16 + i < 8 := by omega
  simp [imm16Of, getLsbD_packCmd, hi, h₁, h₂]

/-- A command word is its four fields (R75): nothing else is in it. -/
theorem packCmd_fields (cmd : CmdWord) : packCmd (imm16Of cmd) (arg8Of cmd) (slotOf cmd) (opcOf cmd) = cmd := by
  apply BitVec.eq_of_getLsbD_eq
  intro i hi
  rw [getLsbD_packCmd]
  simp only [imm16Of, arg8Of, slotOf, opcOf, BitVec.getLsbD_extractLsb']
  split_ifs
  · simp [*]
  · have : i - 4 < 4 := by omega
    have : 4 + (i - 4) = i := by omega
    simp [*]
  · have : i - 8 < 8 := by omega
    have : 8 + (i - 8) = i := by omega
    simp [*]
  · have : i - 16 < 16 := by omega
    have : 16 + (i - 16) = i := by omega
    simp [*]

@[simp] theorem word16_high_low (v : Word) : word16 (highByte v) (lowByte v) = v := by
  apply BitVec.eq_of_getLsbD_eq
  intro i hi
  simp only [word16, highByte, lowByte, BitVec.getLsbD_append, BitVec.getLsbD_extractLsb']
  split_ifs
  · simp [*]
  · have : i - 8 < 8 := by omega
    have : 8 + (i - 8) = i := by omega
    simp [*]

@[simp] theorem highByte_word16 (hi lo : Byte) : highByte (word16 hi lo) = hi := by
  apply BitVec.eq_of_getLsbD_eq
  intro i h
  simp only [highByte, word16, BitVec.getLsbD_append, BitVec.getLsbD_extractLsb']
  simp [h]

@[simp] theorem lowByte_word16 (hi lo : Byte) : lowByte (word16 hi lo) = lo := by
  apply BitVec.eq_of_getLsbD_eq
  intro i h
  simp only [lowByte, word16, BitVec.getLsbD_append, BitVec.getLsbD_extractLsb']
  simp [h]

@[simp] theorem bordOf_bordCode (b : ByteOrder) : bordOf (bordCode b) = some b := by cases b <;> rfl

/-- The only code that is no byte order is 3 (R78). -/
theorem bordOf_eq_none_iff (c : BitVec 2) : bordOf c = none ↔ c = 3#2 := by revert c; decide

theorem bordCode_of_bordOf (c : BitVec 2) (b : ByteOrder) (h : bordOf c = some b) : bordCode b = c := by
  revert c b; decide

@[simp] theorem presetOf_presetCode (p : PresetId) : presetOf (presetCode p) = p := by cases p <;> rfl

@[simp] theorem presetCode_presetOf (c : BitVec 2) : presetCode (presetOf c) = c := by revert c; decide

/-- The fields of CONSTRUCT's ARG8 (R75). -/
@[simp] theorem constructArg8_fields (b : ByteOrder) (refout refin : Bool) :
    (constructArg8 b refout refin).extractLsb' 4 4 = 0#4 ∧ (constructArg8 b refout refin).extractLsb' 2 2 = bordCode b ∧
      (constructArg8 b refout refin).getLsbD 1 = refout ∧ (constructArg8 b refout refin).getLsbD 0 = refin := by
  cases b <;> cases refout <;> cases refin <;> decide

/-- A command without a payload decodes exactly when its meaningless fields are 0 and its payload is empty (R82). -/
theorem decodeBare_ok_iff (zero : Bool) (payload : List Byte) (i j : Instr) :
    decodeBare zero payload i = .ok j ↔ zero = true ∧ payload = [] ∧ i = j := by
  unfold decodeBare
  cases zero <;> cases payload <;> simp

end Sys2Proof
end

