-- ==== Sys2Proof/Laws/Table.lean ====
section
/-! SUPPORT. Reading built tables, writing tables, the lazy build, bit reversal. -/

namespace Sys2Proof.Machine

/-- Entry i of a tabulated table. -/
@[simp] theorem tabulate_get (f : Byte → Word) (i : Byte) : (tabulate f)[i.toNat]'i.isLt = f i := by
  simp [tabulate]

/-- Entry i of `build(poly, refin)` (R134). -/
@[simp] theorem build_get (poly : Word) (refin : Bool) (i : Byte) :
    (build poly refin)[i.toNat]'i.isLt = tableEntry poly refin i := tabulate_get _ i

@[simp] theorem ensureTable_cfg (sl : Slot) : (ensureTable sl).cfg = sl.cfg := by unfold ensureTable; split <;> rfl
@[simp] theorem ensureTable_valid (sl : Slot) : (ensureTable sl).valid = sl.valid := by
  unfold ensureTable; split <;> rfl
@[simp] theorem ensureTable_tstate (sl : Slot) : (ensureTable sl).tstate = .built := by
  unfold ensureTable; split <;> simp [*]

/-- On a built slot the lazy build does nothing (R137). -/
theorem ensureTable_of_built (sl : Slot) (h : sl.tstate = .built) : ensureTable sl = sl := by
  simp [ensureTable, h]

/-- On an unbuilt slot the lazy build fills the table with the configuration's table (R137). -/
theorem ensureTable_of_unbuilt (sl : Slot) (h : sl.tstate = .unbuilt) :
    ensureTable sl = { sl with table := build sl.cfg.poly sl.cfg.refin, tstate := .built } := by
  simp [ensureTable, h]

/-- After the lazy build a faithful slot's table is its configuration's table (R34). -/
theorem ensureTable_table (sl : Slot) (h : sl.tstate = .built → sl.table = build sl.cfg.poly sl.cfg.refin) :
    (ensureTable sl).table = build sl.cfg.poly sl.cfg.refin := by
  cases ht : sl.tstate with
  | unbuilt => simp [ensureTable_of_unbuilt sl ht]
  | built => rw [ensureTable_of_built sl ht]; exact h ht

/-- Reading a slot whose table is its configuration's table. -/
theorem tRead_of_table (sl : Slot) (poly : Word) (refin : Bool) (h : sl.table = build poly refin) (i : Byte) :
    tRead sl i = tableEntry poly refin i := by
  simp [tRead, h]

/-- Reading back a written entry, and the others. -/
theorem tRead_tWrite (sl : Slot) (i j : Byte) (v : Word) :
    tRead (tWrite sl i v) j = if i = j then v else tRead sl j := by
  simp only [tRead, tWrite, Vector.getElem_set, BitVec.toNat_inj]

@[simp] theorem tWrite_cfg (sl : Slot) (i : Byte) (v : Word) : (tWrite sl i v).cfg = sl.cfg := rfl
@[simp] theorem tWrite_valid (sl : Slot) (i : Byte) (v : Word) : (tWrite sl i v).valid = sl.valid := rfl
@[simp] theorem tWrite_tstate (sl : Slot) (i : Byte) (v : Word) : (tWrite sl i v).tstate = sl.tstate := rfl

/-- The bits of a reversed word (R131). -/
theorem getLsbD_rev16 (x : Word) (i : Nat) (h : i < 16) : (rev16 x).getLsbD i = x.getLsbD (15 - i) := by
  simp only [rev16, BitVec.getLsbD_reverse, BitVec.getMsbD, h, decide_true, Bool.true_and]

/-- The bits of a reversed byte (R130). -/
theorem getLsbD_rev8 (x : Byte) (i : Nat) (h : i < 8) : (rev8 x).getLsbD i = x.getLsbD (7 - i) := by
  simp only [rev8, BitVec.getLsbD_reverse, BitVec.getMsbD, h, decide_true, Bool.true_and]

/-- Reversing twice is nothing. -/
@[simp] theorem rev16_rev16 (x : Word) : rev16 (rev16 x) = x := by
  apply BitVec.eq_of_getLsbD_eq
  intro i hi
  rw [getLsbD_rev16 _ i hi, getLsbD_rev16 _ _ (by omega)]
  congr 1; omega

end Sys2Proof.Machine
end

