-- ==== Sys2Proof/Laws/Linear.lean ====
section
/-! SUPPORT. Reversal, the shifts of the table builder and table entries commute with XOR; no conditional XOR happens
while only low bits are set. -/

namespace Sys2Proof.Machine

theorem rev8_xor (a b : Byte) : rev8 (a ^^^ b) = rev8 a ^^^ rev8 b := by
  apply BitVec.eq_of_getLsbD_eq
  intro i hi
  simp only [BitVec.getLsbD_xor, getLsbD_rev8 _ _ hi]

theorem rev16_xor (a b : Word) : rev16 (a ^^^ b) = rev16 a ^^^ rev16 b := by
  apply BitVec.eq_of_getLsbD_eq
  intro i hi
  simp only [BitVec.getLsbD_xor, getLsbD_rev16 _ _ hi]

/-- One shift of R132 commutes with XOR. -/
theorem shiftStep_xor (p a b : Word) : shiftStep p (a ^^^ b) = shiftStep p a ^^^ shiftStep p b := by
  have hd : (a ^^^ b) <<< 1 = a <<< 1 ^^^ b <<< 1 := by
    apply BitVec.eq_of_getLsbD_eq
    intro i hi
    simp [BitVec.getLsbD_shiftLeft, Bool.and_xor_distrib_left]
  have hp : a <<< 1 ^^^ b <<< 1 = (a <<< 1 ^^^ p) ^^^ (b <<< 1 ^^^ p) := by
    calc a <<< 1 ^^^ b <<< 1 = (a <<< 1 ^^^ b <<< 1) ^^^ (p ^^^ p) := by simp
      _ = _ := by ac_rfl
  unfold shiftStep
  rw [BitVec.getLsbD_xor, hd]
  cases a.getLsbD 15 <;> cases b.getLsbD 15 <;>
    simp only [Bool.bne_true, Bool.bne_false, Bool.not_true, Bool.not_false, if_true, Bool.false_eq_true, if_false]
  · ac_rfl
  · ac_rfl
  · exact hp

theorem shiftSteps_xor (p : Word) (n : Nat) (a b : Word) :
    shiftSteps p n (a ^^^ b) = shiftSteps p n a ^^^ shiftSteps p n b := by
  induction n generalizing a b with
  | zero => rfl
  | succ n ih => simp only [shiftSteps, shiftStep_xor, ih]

theorem seed_xor (a b : Byte) : seed (a ^^^ b) = seed a ^^^ seed b := by
  apply BitVec.eq_of_getLsbD_eq
  intro i hi
  simp [seed, BitVec.getLsbD_shiftLeft, Bool.and_xor_distrib_left]

/-- A table entry of an XOR is the XOR of the entries. -/
theorem tableEntry_xor (p : Word) (refin : Bool) (a b : Byte) :
    tableEntry p refin (a ^^^ b) = tableEntry p refin a ^^^ tableEntry p refin b := by
  cases refin <;>
    simp only [tableEntry, normalEntry, reflectedEntry, step8, seed_xor, rev8_xor, shiftSteps_xor, rev16_xor, if_true,
      Bool.false_eq_true, if_false]

/-- While the bits of a byte do not reach bit 15, a shift of R132 is a plain shift. -/
theorem shiftSteps_low (p : Word) (b : Byte) (n m : Nat) (h : n + m ≤ 8) :
    shiftSteps p n (b.zeroExtend 16 <<< m) = b.zeroExtend 16 <<< (n + m) := by
  induction n generalizing m with
  | zero => simp [shiftSteps]
  | succ n ih =>
    have top : ((b.zeroExtend 16 : Word) <<< m).getLsbD 15 = false := by
      simp only [BitVec.getLsbD_shiftLeft, BitVec.getLsbD_setWidth]
      have := BitVec.getLsbD_of_ge b (15 - m) (by omega)
      simp [this]
    have one : (b.zeroExtend 16 : Word) <<< m <<< 1 = (b.zeroExtend 16 : Word) <<< (m + 1) := by
      rw [BitVec.shiftLeft_add]
    simp only [shiftSteps, shiftStep, top, Bool.false_eq_true, if_false, one]
    rw [ih (m + 1) (by omega)]
    congr 1
    omega

end Sys2Proof.Machine
end

