-- ==== Sys2Proof/Laws/State.lean ====
section
/-! SUPPORT. One lemma per field per update of the state, so that no proof unfolds a record update. -/

namespace Sys2Proof.Machine

@[simp] theorem State.setSlot_slots (s : State) (k : BitVec 4) (sl : Slot) :
    (s.setSlot k sl).slots = s.slots.set k.toNat sl := rfl
@[simp] theorem State.setSlot_requesters (s : State) (k : BitVec 4) (sl : Slot) :
    (s.setSlot k sl).requesters = s.requesters := rfl
@[simp] theorem State.setSlot_maxPayload (s : State) (k : BitVec 4) (sl : Slot) :
    (s.setSlot k sl).maxPayload = s.maxPayload := rfl
@[simp] theorem State.setSlot_response (s : State) (k : BitVec 4) (sl : Slot) :
    (s.setSlot k sl).response = s.response := rfl
@[simp] theorem State.setSlot_arbitration (s : State) (k : BitVec 4) (sl : Slot) :
    (s.setSlot k sl).arbitration = s.arbitration := rfl
@[simp] theorem State.setSlot_draws (s : State) (k : BitVec 4) (sl : Slot) :
    (s.setSlot k sl).draws = s.draws := rfl

@[simp] theorem State.respond_slots (s : State) (st : Status) (d : Word) (o : List Byte) :
    (s.respond st d o).slots = s.slots := rfl
@[simp] theorem State.respond_requesters (s : State) (st : Status) (d : Word) (o : List Byte) :
    (s.respond st d o).requesters = s.requesters := rfl
@[simp] theorem State.respond_maxPayload (s : State) (st : Status) (d : Word) (o : List Byte) :
    (s.respond st d o).maxPayload = s.maxPayload := rfl
@[simp] theorem State.respond_response (s : State) (st : Status) (d : Word) (o : List Byte) :
    (s.respond st d o).response = some { status := st, data := d, out := o } := rfl
@[simp] theorem State.respond_arbitration (s : State) (st : Status) (d : Word) (o : List Byte) :
    (s.respond st d o).arbitration = s.arbitration := rfl
@[simp] theorem State.respond_draws (s : State) (st : Status) (d : Word) (o : List Byte) :
    (s.respond st d o).draws = s.draws := rfl

@[simp] theorem State.takeTurn_slots (s : State) (t : Turn) : (s.takeTurn t).slots = s.slots := rfl
@[simp] theorem State.takeTurn_requesters (s : State) (t : Turn) : (s.takeTurn t).requesters = s.requesters := rfl
@[simp] theorem State.takeTurn_maxPayload (s : State) (t : Turn) : (s.takeTurn t).maxPayload = s.maxPayload := rfl
@[simp] theorem State.takeTurn_response (s : State) (t : Turn) : (s.takeTurn t).response = s.response := rfl
@[simp] theorem State.takeTurn_arbitration (s : State) (t : Turn) : (s.takeTurn t).arbitration = t.arbitration := rfl
@[simp] theorem State.takeTurn_draws (s : State) (t : Turn) : (s.takeTurn t).draws = t.draws := rfl

@[simp] theorem State.route_slots (s : State) (q : Nat) : (s.route q).slots = s.slots := by
  unfold State.route; split <;> rfl
@[simp] theorem State.route_maxPayload (s : State) (q : Nat) : (s.route q).maxPayload = s.maxPayload := by
  unfold State.route; split <;> rfl
@[simp] theorem State.route_arbitration (s : State) (q : Nat) : (s.route q).arbitration = s.arbitration := by
  unfold State.route; split <;> rfl
@[simp] theorem State.route_draws (s : State) (q : Nat) : (s.route q).draws = s.draws := by
  unfold State.route; split <;> rfl
@[simp] theorem State.route_response (s : State) (q : Nat) : (s.route q).response = none := by
  unfold State.route; split <;> simp_all
/-- Routing a response answers the oldest pending request of its requester and nothing else (R232). -/
theorem State.route_requesters (s : State) (q : Nat) (r : Response) (h : s.response = some r) :
    (s.route q).requesters = s.requesters.modify q (answerOldest r) := by
  simp [State.route, h]

@[simp] theorem State.issue_slots (s : State) (q : Nat) (r : Request) : (s.issue q r).slots = s.slots := rfl
@[simp] theorem State.issue_maxPayload (s : State) (q : Nat) (r : Request) :
    (s.issue q r).maxPayload = s.maxPayload := rfl
@[simp] theorem State.issue_response (s : State) (q : Nat) (r : Request) : (s.issue q r).response = s.response := rfl
@[simp] theorem State.issue_arbitration (s : State) (q : Nat) (r : Request) :
    (s.issue q r).arbitration = s.arbitration := rfl
@[simp] theorem State.issue_draws (s : State) (q : Nat) (r : Request) : (s.issue q r).draws = s.draws := rfl

@[simp] theorem State.placeNext_slots (s : State) (r : Request) : (s.placeNext r).slots = s.slots := rfl
@[simp] theorem State.placeNext_maxPayload (s : State) (r : Request) :
    (s.placeNext r).maxPayload = s.maxPayload := rfl
@[simp] theorem State.placeNext_response (s : State) (r : Request) : (s.placeNext r).response = s.response := rfl
@[simp] theorem State.placeNext_arbitration (s : State) (r : Request) :
    (s.placeNext r).arbitration = 0 :: s.arbitration := rfl
@[simp] theorem State.placeNext_draws (s : State) (r : Request) : (s.placeNext r).draws = s.draws := rfl

@[simp] theorem Slot.begin_valid (cfg : Configuration) (d : Nat) : (Slot.begin cfg d).valid = true := rfl
@[simp] theorem Slot.begin_cfg (cfg : Configuration) (d : Nat) : (Slot.begin cfg d).cfg = cfg := rfl
@[simp] theorem Slot.begin_tstate (cfg : Configuration) (d : Nat) : (Slot.begin cfg d).tstate = .unbuilt := rfl
@[simp] theorem Slot.ended_valid (d : Nat) : (Slot.ended d).valid = false := rfl
@[simp] theorem Slot.ended_tstate (d : Nat) : (Slot.ended d).tstate = .unbuilt := rfl

end Sys2Proof.Machine
end

