-- ==== Sys2Proof/Laws/Ops.lean ====
section
/-! SUPPORT. Once for each shared operation: when it takes which way, and everything it can do when it answers a next
state. -/

namespace Sys2Proof.Machine

theorem onSlot_some {k : BitVec 4} {s : State} {sl : Slot} (h : s.slots[k.toNat]? = some sl) (body : Slot → Result) :
    onSlot k s body = body sl := by simp [onSlot, h]

theorem onSlot_none {k : BitVec 4} {s : State} (h : s.slots[k.toNat]? = none) (body : Slot → Result) :
    onSlot k s body = raise .errIllegal s := by simp [onSlot, h]

theorem withinBound_short {data : List Byte} {s : State} (h : tooLong s.maxPayload data = false) (body : Result) :
    withinBound data s body = body := by simp [withinBound, h]

theorem withinBound_long {data : List Byte} {s : State} (h : tooLong s.maxPayload data = true) (body : Result) :
    withinBound data s body = raise .errLength s := by simp [withinBound, h]

theorem onLive_valid {sl : Slot} (h : sl.valid = true) (s : State) (body : Result) : onLive sl s body = body := by
  simp [onLive, h]

theorem onLive_empty {sl : Slot} (h : sl.valid = false) (s : State) (body : Result) :
    onLive sl s body = raise .errNoInstance s := by simp [onLive, h]

/-- The slot check, inverted. -/
theorem onSlot_next {k : BitVec 4} {s t : State} {body : Slot → Result} (h : onSlot k s body = .next t) :
    (s.slots[k.toNat]? = none ∧ t = s.respond .errIllegal 0 []) ∨
      ∃ sl, s.slots[k.toNat]? = some sl ∧ body sl = .next t := by
  cases hk : s.slots[k.toNat]? with
  | none => rw [onSlot_none hk] at h; exact .inl ⟨rfl, by simpa [raise] using h.symm⟩
  | some sl => rw [onSlot_some hk] at h; exact .inr ⟨sl, rfl, h⟩

/-- The length check, inverted. -/
theorem withinBound_next {data : List Byte} {s t : State} {body : Result} (h : withinBound data s body = .next t) :
    (tooLong s.maxPayload data = true ∧ t = s.respond .errLength 0 []) ∨
      (tooLong s.maxPayload data = false ∧ body = .next t) := by
  cases hl : tooLong s.maxPayload data with
  | true => rw [withinBound_long hl] at h; exact .inl ⟨rfl, by simpa [raise] using h.symm⟩
  | false => rw [withinBound_short hl] at h; exact .inr ⟨rfl, h⟩

/-- The instance check, inverted. -/
theorem onLive_next {sl : Slot} {s t : State} {body : Result} (h : onLive sl s body = .next t) :
    (sl.valid = false ∧ t = s.respond .errNoInstance 0 []) ∨ (sl.valid = true ∧ body = .next t) := by
  cases hv : sl.valid with
  | false => rw [onLive_empty hv] at h; exact .inl ⟨rfl, by simpa [raise] using h.symm⟩
  | true => rw [onLive_valid hv] at h; exact .inr ⟨rfl, h⟩

/-- Everything a command can do to the state before its response (R221, R225): nothing (then every error and
TO_BYTES), the lazy build of its slot, beginning an engine in it, ending the engine in it. -/
inductive Effect (k : BitVec 4) (s : State) : State → Prop
  | keep : Effect k s s
  | table (sl : Slot) (hk : s.slots[k.toNat]? = some sl) (hv : sl.valid = true) :
      Effect k s (s.setSlot k (ensureTable sl))
  | start (sl : Slot) (hk : s.slots[k.toNat]? = some sl) (cfg : Configuration) :
      Effect k s { s.setSlot k (Slot.begin cfg s.draws) with draws := s.draws + 1 }
  | stop (sl : Slot) (hk : s.slots[k.toNat]? = some sl) (hv : sl.valid = true) :
      Effect k s { s.setSlot k (Slot.ended s.draws) with draws := s.draws + 1 }

/-- Every command answers a next state: its effect, then a response (R225, R237). -/
theorem exec_effect (i : Instr) (s : State) :
    ∃ u st d o, Effect i.slot s u ∧ exec i s = .next (u.respond st d o) := by
  have live : ∀ (k : BitVec 4) (body : Slot → Result), (∀ sl, s.slots[k.toNat]? = some sl → sl.valid = true →
      ∃ u st d o, Effect k s u ∧ body sl = .next (u.respond st d o)) →
      ∀ sl, s.slots[k.toNat]? = some sl → ∃ u st d o, Effect k s u ∧ onLive sl s (body sl) = .next (u.respond st d o) := by
    intro k body hb sl hk
    cases hv : sl.valid with
    | false => exact ⟨s, _, _, _, .keep, onLive_empty hv s _⟩
    | true => rw [onLive_valid hv]; exact hb sl hk hv
  have onslot : ∀ (k : BitVec 4) (body : Slot → Result), (∀ sl, s.slots[k.toNat]? = some sl →
      ∃ u st d o, Effect k s u ∧ body sl = .next (u.respond st d o)) →
      ∃ u st d o, Effect k s u ∧ onSlot k s body = .next (u.respond st d o) := by
    intro k body hb
    cases hk : s.slots[k.toNat]? with
    | none => exact ⟨s, _, _, _, .keep, onSlot_none hk _⟩
    | some sl => rw [onSlot_some hk]; exact hb sl hk
  have bound : ∀ (k : BitVec 4) (data : List Byte) (body : Result),
      (∃ u st d o, Effect k s u ∧ body = .next (u.respond st d o)) →
      ∃ u st d o, Effect k s u ∧ withinBound data s body = .next (u.respond st d o) := by
    intro k data body hb
    cases hl : tooLong s.maxPayload data with
    | true => exact ⟨s, _, _, _, .keep, withinBound_long hl _⟩
    | false => rw [withinBound_short hl]; exact hb
  cases i with
  | construct k poly bord refout refin init xorout =>
    exact onslot k _ fun sl hk => ⟨_, _, _, _, .start sl hk _, rfl⟩
  | preset k id => exact onslot k _ fun sl hk => ⟨_, _, _, _, .start sl hk _, rfl⟩
  | checksum k data =>
    exact onslot k _ fun sl hk => bound k data _ (live k (fun sl => usingTable k sl s _)
      (fun sl hk hv => ⟨_, _, _, _, .table sl hk hv, rfl⟩) sl hk)
  | update k prev data =>
    exact onslot k _ fun sl hk => bound k data _ (live k (fun sl => usingTable k sl s _)
      (fun sl hk hv => ⟨_, _, _, _, .table sl hk hv, rfl⟩) sl hk)
  | toBytes k value =>
    exact onslot k _ (live k (fun sl => .next (s.respond .ok 0 (serialize value sl.cfg.bord)))
      fun sl _ _ => ⟨_, _, _, _, .keep, rfl⟩)
  | buildTable k =>
    exact onslot k _ (live k (fun sl => usingTable k sl s _) fun sl hk hv => ⟨_, _, _, _, .table sl hk hv, rfl⟩)
  | readTable k index =>
    exact onslot k _ (live k (fun sl => usingTable k sl s _) fun sl hk hv => ⟨_, _, _, _, .table sl hk hv, rfl⟩)
  | release k =>
    exact onslot k _ (live k (fun _ => .next ((State.respond { s.setSlot k (Slot.ended s.draws) with
      draws := s.draws + 1 } .ok 0 []))) fun sl hk hv => ⟨_, _, _, _, .stop sl hk hv, rfl⟩)

/-- No effect touches the requesters' side, the parameters, or the number of slots. -/
theorem Effect.frame {k : BitVec 4} {s u : State} (h : Effect k s u) :
    u.slots.length = s.slots.length ∧ u.requesters = s.requesters ∧ u.maxPayload = s.maxPayload ∧
      u.arbitration = s.arbitration ∧ u.response = s.response := by
  cases h <;> simp

/-- No effect touches another slot (R106). -/
theorem Effect.other_slots {k : BitVec 4} {s u : State} (h : Effect k s u) (j : Nat) (hj : j ≠ k.toNat) :
    u.slots[j]? = s.slots[j]? := by
  cases h <;> simp [List.getElem?_set_ne hj.symm]

/-- CHECKSUM, UPDATE, BUILD_TABLE and READ_TABLE, the commands that use the table of their slot (R138). -/
theorem usesTable_exec (s : State) (k : BitVec 4) (sl : Slot) (h : s.slots[k.toNat]? = some sl) (hv : sl.valid = true) :
    (∀ data, tooLong s.maxPayload data = false →
      exec (.checksum k data) s = usingTable k sl s (runPipeline (fun cfg => cfg.init) data)) ∧
    (∀ prev data, tooLong s.maxPayload data = false →
      exec (.update k prev data) s = usingTable k sl s (runPipeline (fun cfg => unOutX cfg prev) data)) ∧
    exec (.buildTable k) s = usingTable k sl s (fun _ => 0) ∧
    (∀ index, exec (.readTable k index) s = usingTable k sl s (fun built => tRead built index)) := by
  refine ⟨fun data hl => ?_, fun prev data hl => ?_, ?_, fun index => ?_⟩
  · rw [exec, execChecksum, onSlot_some h, withinBound_short hl, onLive_valid hv]
  · rw [exec, execUpdate, onSlot_some h, withinBound_short hl, onLive_valid hv]
  · rw [exec, execBuildTable, onSlot_some h, onLive_valid hv]
  · rw [exec, execReadTable, onSlot_some h, onLive_valid hv]

end Sys2Proof.Machine
end

