-- ==== Sys2Proof/Laws/PerInstr.lean ====
section
/-! SUPPORT. A statement made for every command: its encoded word fits its row of the opcode table (the row's `mask`,
`match` and payload columns, as the spec's table gives them). -/

namespace Sys2Proof

/-- ANDing two packed words is ANDing their fields. -/
theorem packCmd_and (a a' : Word) (b b' : Byte) (c c' d d' : BitVec 4) :
    packCmd a b c d &&& packCmd a' b' c' d' = packCmd (a &&& a') (b &&& b') (c &&& c') (d &&& d') := by
  apply BitVec.eq_of_getLsbD_eq
  intro i hi
  simp only [BitVec.getLsbD_and, getLsbD_packCmd]
  split_ifs <;> rfl

end Sys2Proof

namespace Sys2Proof.Laws.TableRow

/-- The `mask` column of opcode_table.json. -/
def rowMask : Instr → CmdWord
  | .construct _ _ _ _ _ _ _ => 0x0000F00F#32
  | .preset _ _ => 0xFFFFFC0F#32
  | .checksum _ _ => 0xFFFFFF0F#32
  | .update _ _ _ => 0x0000FF0F#32
  | .toBytes _ _ => 0x0000FF0F#32
  | .buildTable _ => 0xFFFFFF0F#32
  | .readTable _ _ => 0xFFFF000F#32
  | .release _ => 0xFFFFFF0F#32

/-- The `match` column of opcode_table.json. -/
def rowMatch : Instr → CmdWord
  | .construct _ _ _ _ _ _ _ => 0x00000001#32
  | .preset _ _ => 0x00000002#32
  | .checksum _ _ => 0x00000003#32
  | .update _ _ _ => 0x00000004#32
  | .toBytes _ _ => 0x00000005#32
  | .buildTable _ => 0x00000006#32
  | .readTable _ _ => 0x00000007#32
  | .release _ => 0x00000008#32

/-- The `payload` column of opcode_table.json: exactly 4 bytes, any data bytes, or empty. -/
def rowPayload (i : Instr) (payload : List Byte) : Prop :=
  match i with
  | .construct _ _ _ _ _ _ _ => payload.length = 4
  | .checksum _ data | .update _ _ data => payload = data
  | .preset _ _ | .toBytes _ _ | .buildTable _ | .readTable _ _ | .release _ => payload = []

/-- The encoded request of a command fits its row of the opcode table. -/
def Statement (i : Instr) : Prop :=
  (encode i).cmd &&& rowMask i = rowMatch i ∧ rowPayload i (encode i).payload

theorem construct (k : BitVec 4) (poly : Word) (bord : ByteOrder) (refout refin : Bool) (init xorout : Word) :
    Statement (.construct k poly bord refout refin init xorout) := by
  refine ⟨?_, rfl⟩
  have hm : (0x0000F00F#32 : CmdWord) = packCmd 0x0000#16 0xF0#8 0x0#4 0xF#4 := by decide
  have ha : constructArg8 bord refout refin &&& 0xF0#8 = 0#8 := by
    cases bord <;> cases refout <;> cases refin <;> decide
  show packCmd poly (constructArg8 bord refout refin) k 0x1#4 &&& 0x0000F00F#32 = 0x00000001#32
  rw [hm, packCmd_and, ha, BitVec.and_zero, BitVec.and_zero]
  decide

theorem preset (k : BitVec 4) (id : PresetId) : Statement (.preset k id) := by
  refine ⟨?_, rfl⟩
  have hm : (0xFFFFFC0F#32 : CmdWord) = packCmd 0xFFFF#16 0xFC#8 0x0#4 0xF#4 := by decide
  have ha : (0#6 ++ presetCode id : Byte) &&& 0xFC#8 = 0#8 := by cases id <;> decide
  show packCmd 0#16 (0#6 ++ presetCode id) k 0x2#4 &&& 0xFFFFFC0F#32 = 0x00000002#32
  rw [hm, packCmd_and, ha, BitVec.and_zero]
  decide

theorem checksum (k : BitVec 4) (data : List Byte) : Statement (.checksum k data) := by
  refine ⟨?_, rfl⟩
  have hm : (0xFFFFFF0F#32 : CmdWord) = packCmd 0xFFFF#16 0xFF#8 0x0#4 0xF#4 := by decide
  show packCmd 0#16 0#8 k 0x3#4 &&& 0xFFFFFF0F#32 = 0x00000003#32
  rw [hm, packCmd_and, BitVec.and_zero]
  decide

theorem update (k : BitVec 4) (prev : Word) (data : List Byte) : Statement (.update k prev data) := by
  refine ⟨?_, rfl⟩
  have hm : (0x0000FF0F#32 : CmdWord) = packCmd 0x0000#16 0xFF#8 0x0#4 0xF#4 := by decide
  show packCmd prev 0#8 k 0x4#4 &&& 0x0000FF0F#32 = 0x00000004#32
  rw [hm, packCmd_and, BitVec.and_zero, BitVec.and_zero]
  decide

theorem toBytes (k : BitVec 4) (value : Word) : Statement (.toBytes k value) := by
  refine ⟨?_, rfl⟩
  have hm : (0x0000FF0F#32 : CmdWord) = packCmd 0x0000#16 0xFF#8 0x0#4 0xF#4 := by decide
  show packCmd value 0#8 k 0x5#4 &&& 0x0000FF0F#32 = 0x00000005#32
  rw [hm, packCmd_and, BitVec.and_zero, BitVec.and_zero]
  decide

theorem buildTable (k : BitVec 4) : Statement (.buildTable k) := by
  refine ⟨?_, rfl⟩
  have hm : (0xFFFFFF0F#32 : CmdWord) = packCmd 0xFFFF#16 0xFF#8 0x0#4 0xF#4 := by decide
  show packCmd 0#16 0#8 k 0x6#4 &&& 0xFFFFFF0F#32 = 0x00000006#32
  rw [hm, packCmd_and, BitVec.and_zero]
  decide

theorem readTable (k : BitVec 4) (index : Byte) : Statement (.readTable k index) := by
  refine ⟨?_, rfl⟩
  have hm : (0xFFFF000F#32 : CmdWord) = packCmd 0xFFFF#16 0x00#8 0x0#4 0xF#4 := by decide
  show packCmd 0#16 index k 0x7#4 &&& 0xFFFF000F#32 = 0x00000007#32
  rw [hm, packCmd_and, BitVec.and_zero, BitVec.and_zero]
  decide

theorem release (k : BitVec 4) : Statement (.release k) := by
  refine ⟨?_, rfl⟩
  have hm : (0xFFFFFF0F#32 : CmdWord) = packCmd 0xFFFF#16 0xFF#8 0x0#4 0xF#4 := by decide
  show packCmd 0#16 0#8 k 0x8#4 &&& 0xFFFFFF0F#32 = 0x00000008#32
  rw [hm, packCmd_and, BitVec.and_zero]
  decide

end Sys2Proof.Laws.TableRow
end

