-- ==== Sys2Proof/Laws/Requesters.lean ====
section
/-! SUPPORT. The requesters' side: what the choice can choose, what answering a request changes, what a step is. -/

namespace Sys2Proof.Machine

/-- A named turn is a pending requester's oldest request, and draws no free value. -/
theorem State.namedTurn_some {s : State} {l : List Nat} {t : Turn} (h : s.namedTurn l = some t) :
    s.pendingOf t.requester = some t.request ∧ t.draws = s.draws := by
  induction l with
  | nil => simp [State.namedTurn] at h
  | cons q rest ih =>
    simp only [State.namedTurn] at h
    split at h
    · rename_i r hr; cases h; exact ⟨hr, rfl⟩
    · exact ih h

/-- The requesters that are ready are those with a pending request, each with its oldest one. -/
theorem State.mem_ready {s : State} {q : Nat} {r : Request} :
    (q, r) ∈ s.ready ↔ s.pendingOf q = some r := by
  simp only [State.ready, List.mem_filterMap, List.mem_range, Option.map_eq_some_iff, Prod.mk.injEq]
  constructor
  · rintro ⟨a, _, b, hb, rfl, rfl⟩; exact hb
  · intro h
    refine ⟨q, ?_, r, h, rfl, rfl⟩
    by_contra hq
    simp [State.pendingOf, List.getElem?_eq_none (Nat.le_of_not_lt hq)] at h

/-- Whatever is chosen, it is the oldest pending request of its requester (R231). -/
theorem State.choose_some {s : State} {t : Turn} (h : s.choose = some t) : s.pendingOf t.requester = some t.request := by
  unfold State.choose at h
  split at h
  · rename_i t' ht; cases h; exact (State.namedTurn_some ht).1
  · split at h
    · simp at h
    · rename_i q r hr
      cases h
      exact State.mem_ready.mp (by simp [hr])
    · rename_i c c' more hr
      cases h
      refine State.mem_ready.mp ?_
      rw [hr]
      exact List.getElem_mem _

/-- The sequence of a chosen requester exists and has a pending request. -/
theorem State.pendingOf_some {s : State} {q : Nat} {r : Request} (h : s.pendingOf q = some r) :
    ∃ seq, s.requesters[q]? = some seq ∧ oldestPending seq = some r := by
  unfold State.pendingOf at h
  split at h
  · simp at h
  · rename_i seq hs; exact ⟨seq, hs, h⟩

@[simp] theorem length_answerOldest (r : Response) (seq : List Issued) :
    (answerOldest r seq).length = seq.length := by
  induction seq with
  | nil => rfl
  | cons e rest ih => simp only [answerOldest]; split <;> simp [ih]

/-- Answering changes no request. -/
theorem answerOldest_requests (r : Response) (seq : List Issued) :
    (answerOldest r seq).map (fun e => e.request) = seq.map fun e => e.request := by
  induction seq with
  | nil => rfl
  | cons e rest ih => simp only [answerOldest]; split <;> simp [ih]

/-- A response, once given, stays. -/
theorem answerOldest_keeps {r r' : Response} {seq : List Issued} {j : Nat} {e : Issued}
    (he : seq[j]? = some e) (hr : e.response = some r') : (answerOldest r seq)[j]? = some e := by
  induction seq generalizing j with
  | nil => simp at he
  | cons x rest ih =>
    simp only [answerOldest]
    cases j with
    | zero =>
      simp only [List.getElem?_cons_zero, Option.some.injEq] at he
      subst he
      simp [hr]
    | succ j =>
      simp only [List.getElem?_cons_succ] at he
      split
      · simpa using he
      · simpa using ih he

/-- A decoded request is performed by the command's meaning (R225). -/
theorem perform_of_decode {r : Request} {s : State} {i : Instr} (h : decode s.numSlots r = .ok i) :
    perform r s = exec i s := by simp [perform, h]

/-- An illegal request is answered ERR_ILLEGAL (R222). -/
theorem perform_of_error {r : Request} {s : State} {e : DecodeError} (h : decode s.numSlots r = .error e) :
    perform r s = raise .errIllegal s := by simp [perform, h]

/-- Performing a request answers a next state: an effect on one slot, then a response (R56, R237). -/
theorem perform_effect (r : Request) (s : State) :
    ∃ k u st d o, Effect k s u ∧ perform r s = .next (u.respond st d o) := by
  cases h : decode s.numSlots r with
  | error e => exact ⟨0, s, _, _, _, .keep, perform_of_error h⟩
  | ok i =>
    obtain ⟨u, st, d, o, hu, he⟩ := exec_effect i s
    exact ⟨i.slot, u, st, d, o, hu, (perform_of_decode h).trans he⟩

/-- A step with nothing pending (log 8). -/
theorem step_idle {s : State} (h : s.choose = none) : step s = .next s := by simp [step, stepOf, h]

/-- A step performs the chosen request and gives the response to its requester (R231, R232). -/
theorem step_chosen {s : State} {t : Turn} (h : s.choose = some t) :
    step s = deliver t.requester (perform t.request (s.takeTurn t)) := by simp [step, stepOf, h]

/-- The step, inverted: it answers a next state, which is the state itself with nothing pending, or the state after
the chosen request's effect with that request answered. -/
theorem step_cases (s : State) :
    (s.choose = none ∧ step s = .next s) ∨
      ∃ t k u st d o, s.choose = some t ∧ Effect k (s.takeTurn t) u ∧
        step s = .next ((u.respond st d o).route t.requester) := by
  cases h : s.choose with
  | none => exact .inl ⟨rfl, step_idle h⟩
  | some t =>
    obtain ⟨k, u, st, d, o, hu, hp⟩ := perform_effect t.request (s.takeTurn t)
    exact .inr ⟨t, k, u, st, d, o, rfl, hu, by rw [step_chosen h, hp]; rfl⟩

end Sys2Proof.Machine
end

