-- ==== Sys2Proof/Tests/Slice0.lean ====
section
/-! SUPPORT. The model's own tests, with the values that 95_test_vectors.md and the examples of the rules give, and for
every obligation with hypotheses a witness that meets them. -/

namespace Sys2Proof.Tests

open Sys2Proof Sys2Proof.Machine

/-! ### Small states -/

def xmodem : Configuration := presetRom .xmodem
def kermit : Configuration := presetRom .kermit

/-- X.25 (L1.3). -/
def x25 : Configuration := { poly := 0x1021, init := 0xFFFF, refin := true, refout := true, xorout := 0xFFFF, bord := .little }

/-- A configuration without a byte order and with REFIN ≠ REFOUT (P4, row 4). -/
def noOrder : Configuration := { poly := 0x1021, init := 0xFFFF, refin := true, refout := false, xorout := 0, bord := .none }

/-- A slot that holds an engine whose table is not built; its table contents are arbitrary. -/
def fresh (cfg : Configuration) : Slot := { valid := true, cfg := cfg, table := Vector.replicate 256 0xDEAD, tstate := .unbuilt }

/-- A slot that holds an engine whose table is built. -/
def ready (cfg : Configuration) : Slot :=
  { valid := true, cfg := cfg, table := build cfg.poly cfg.refin, tstate := .built }

/-- Two slots, the second empty; two requesters with nothing issued. -/
def block (sl : Slot) (bound : Option Nat) : State :=
  { slots := [sl, Slot.reset], requesters := [[], []], maxPayload := bound, response := none, arbitration := [], draws := 0 }

/-- "123456789". -/
def nine : List Byte := [0x31, 0x32, 0x33, 0x34, 0x35, 0x36, 0x37, 0x38, 0x39]

def answer (status : Status) (data : Word) (out : List Byte) : Option Response :=
  some { status := status, data := data, out := out }

/-- The response a command answers with. -/
def responseOf (o : Result) : Option Response :=
  match o with
  | .next t => t.response
  | .fault _ | .refused _ => none

/-- What a command leaves in slot j: its lifecycle state and its configuration. -/
def slotAfter (j : Nat) (o : Result) : Option (Lifecycle × Configuration) :=
  match o with
  | .next t => t.slots[j]?.map fun sl => (sl.lifecycle, sl.cfg)
  | .fault _ | .refused _ => none

/-- The responses requester q has received after a step. -/
def receivedAfter (q : Nat) (o : Result) : Option (List (Option Response)) :=
  match o with
  | .next t => t.requesters[q]?.map fun seq => seq.map fun e => e.response
  | .fault _ | .refused _ => none

/-! ### Well-formedness: the one check refuses a slot that the block does not have (R72) -/

theorem test_wf_refuses_slot_2_of_2 : (Instr.release 2).wf 2 = false := by decide
theorem test_wf_accepts_slot_1_of_2 : (Instr.release 1).wf 2 = true := by decide

/-! ### Decoding: one word per command, written out field by field, and every rejection of L2.7 -/

/-- IMM16 0x1021, ARG8 0000 10 1 1, SLOT 0, OPC 1 (R101's example). -/
theorem test_decode_construct :
    decode 16 { cmd := 0b0001000000100001_0000_10_1_1_0000_0001#32, payload := [0xFF, 0xFE, 0x12, 0x34] } =
      .ok (.construct 0 0x1021 .little true true 0xFFFE 0x1234) := by rfl

/-- REFOUT is bit 9, REFIN bit 8. -/
theorem test_decode_construct_refout_only :
    decode 16 { cmd := 0b1000000000000101_0000_01_1_0_1111_0001#32, payload := [0, 0, 0, 0] } =
      .ok (.construct 15 0x8005 .big true false 0 0) := by rfl

theorem test_decode_preset :
    decode 16 { cmd := 0b0000000000000000_000000_11_0001_0010#32, payload := [] } = .ok (.preset 1 .modbus) := by rfl

theorem test_decode_checksum :
    decode 16 { cmd := 0b0000000000000000_00000000_0001_0011#32, payload := [0x41] } = .ok (.checksum 1 [0x41]) := by rfl

theorem test_decode_update :
    decode 16 { cmd := 0b1010010001110001_00000000_0000_0100#32, payload := [0x36] } =
      .ok (.update 0 0xA471 [0x36]) := by rfl

theorem test_decode_toBytes :
    decode 16 { cmd := 0b1001000001101110_00000000_0000_0101#32, payload := [] } = .ok (.toBytes 0 0x906E) := by rfl

theorem test_decode_buildTable :
    decode 16 { cmd := 0b0000000000000000_00000000_0111_0110#32, payload := [] } = .ok (.buildTable 7) := by rfl

theorem test_decode_readTable :
    decode 16 { cmd := 0b0000000000000000_10000000_0000_0111#32, payload := [] } = .ok (.readTable 0 0x80) := by rfl

theorem test_decode_release :
    decode 16 { cmd := 0b0000000000000000_00000000_0001_1000#32, payload := [] } = .ok (.release 1) := by rfl

theorem test_decode_rejects_reserved_opcodes :
    decode 2 { cmd := 0x00000000#32, payload := [] } = .error .reservedOpcode ∧
      decode 2 { cmd := 0x00000009#32, payload := [] } = .error .reservedOpcode ∧
      decode 2 { cmd := 0x0000000F#32, payload := [] } = .error .reservedOpcode := ⟨rfl, rfl, rfl⟩

theorem test_decode_rejects_slot : decode 2 { cmd := 0x00000022#32, payload := [] } = .error .slotOutOfRange := by rfl

theorem test_decode_rejects_construct_forms :
    decode 2 { cmd := 0x10211001#32, payload := [0, 0, 0, 0] } = .error .reservedField ∧
      decode 2 { cmd := 0x10210C01#32, payload := [0, 0, 0, 0] } = .error .byteOrderCode ∧
      decode 2 { cmd := 0x10210001#32, payload := [0, 0, 0] } = .error .payloadLength ∧
      decode 2 { cmd := 0x10210001#32, payload := [0, 0, 0, 0, 0] } = .error .payloadLength := ⟨rfl, rfl, rfl, rfl⟩

theorem test_decode_rejects_fields :
    decode 2 { cmd := 0x00000402#32, payload := [] } = .error .reservedField ∧
      decode 2 { cmd := 0x00010002#32, payload := [] } = .error .reservedField ∧
      decode 2 { cmd := 0x00010003#32, payload := [0x41] } = .error .reservedField ∧
      decode 2 { cmd := 0x00000103#32, payload := [0x41] } = .error .reservedField ∧
      decode 2 { cmd := 0x31C30104#32, payload := [] } = .error .reservedField ∧
      decode 2 { cmd := 0x31C30105#32, payload := [] } = .error .reservedField ∧
      decode 2 { cmd := 0x00010006#32, payload := [] } = .error .reservedField ∧
      decode 2 { cmd := 0x00010107#32, payload := [] } = .error .reservedField ∧
      decode 2 { cmd := 0x00000108#32, payload := [] } = .error .reservedField :=
  ⟨rfl, rfl, rfl, rfl, rfl, rfl, rfl, rfl, rfl⟩

theorem test_decode_rejects_payloads :
    decode 2 { cmd := 0x00000002#32, payload := [0x00] } = .error .payloadLength ∧
      decode 2 { cmd := 0x31C30005#32, payload := [0x00] } = .error .payloadLength := ⟨rfl, rfl⟩

/-- An opcode-table word of 32 bits brings CONSTRUCT four zero bytes (log 9). -/
theorem test_decodeTableWord :
    decodeTableWord 32 0x10210B01 = some (.construct 0 0x1021 .little true true 0 0) ∧
      decodeTableWord 32 0x00000003 = some (.checksum 0 []) ∧ decodeTableWord 32 0x00000009 = none := ⟨rfl, rfl, rfl⟩

/-- The next step after reset with a placed word performs it and answers requester 0. -/
theorem test_withFetchWord_runs_next :
    receivedAfter 0 (step (State.reset.withFetchWord 32 0x00000102)) = some [answer .ok 0 []] ∧
      receivedAfter 0 (step (State.reset.withFetchWord 32 0x00000107)) = some [answer .errNoInstance 0 []] := by decide

/-! ### One step per command -/

/-- P2, row 4, on an occupied slot. -/
theorem test_construct :
    responseOf (exec (.construct 0 0x1021 .little true true 0xFFFF 0xFFFF) (block (ready xmodem) none)) =
        answer .ok 0 [] ∧
      slotAfter 0 (exec (.construct 0 0x1021 .little true true 0xFFFF 0xFFFF) (block (ready xmodem) none)) =
        some (.liveUnbuilt, x25) := by decide

/-- L2.7: PRESET never reports NO_INSTANCE. -/
theorem test_preset_on_empty_slot :
    responseOf (exec (.preset 1 .modbus) (block (fresh xmodem) none)) = answer .ok 0 [] ∧
      slotAfter 1 (exec (.preset 1 .modbus) (block (fresh xmodem) none)) =
        some (.liveUnbuilt, { poly := 0x8005, init := 0xFFFF, refin := true, refout := true, xorout := 0, bord := .little }) :=
  by decide

/-- L1.3. -/
theorem test_checksum_x25 : responseOf (exec (.checksum 0 nine) (block (fresh x25) none)) = answer .ok 0x906E [] := by
  decide +kernel

/-- L2.3, the row with REFIN = 1, REFOUT = 0 and INIT 0xFFFF. -/
theorem test_checksum_refin_only :
    responseOf (exec (.checksum 0 nine) (block (fresh noOrder) none)) = answer .ok 0x89F6 [] := by decide +kernel

/-- L1.3: the residue is neither 0 nor XOROUT. -/
theorem test_update_x25_residue :
    responseOf (exec (.update 0 0x906E [0x6E, 0x90]) (block (fresh x25) none)) = answer .ok 0x0F47 [] := by
  decide +kernel

/-- L2.4: XModem, the second part of the message. -/
theorem test_update_xmodem :
    responseOf (exec (.update 0 0x546C [0x36, 0x37, 0x38, 0x39]) (block (ready xmodem) none)) = answer .ok 0x31C3 [] := by
  decide +kernel

/-- L1.4. -/
theorem test_toBytes_kermit :
    responseOf (exec (.toBytes 0 0x2189) (block (fresh kermit) none)) = answer .ok 0 [0x89, 0x21] := by decide

/-- L1.4: no order, no bytes, and an OK response. -/
theorem test_toBytes_none :
    responseOf (exec (.toBytes 0 0x31C3) (block (fresh noOrder) none)) = answer .ok 0 [] := by decide

theorem test_buildTable :
    responseOf (exec (.buildTable 0) (block (fresh kermit) none)) = answer .ok 0 [] ∧
      slotAfter 0 (exec (.buildTable 0) (block (fresh kermit) none)) = some (.liveBuilt, kermit) := by decide

/-- L2.2. -/
theorem test_readTable_normal :
    responseOf (exec (.readTable 0 0x80) (block (fresh xmodem) none)) = answer .ok 0x9188 [] := by decide +kernel

/-- L2.2. -/
theorem test_readTable_reflected :
    responseOf (exec (.readTable 0 0xFF) (block (fresh kermit) none)) = answer .ok 0x0F78 [] := by decide +kernel

/-- R105: a released slot is empty; an empty slot cannot be released. -/
theorem test_release :
    responseOf (exec (.release 0) (block (ready kermit) none)) = answer .ok 0 [] ∧
      (slotAfter 0 (exec (.release 0) (block (ready kermit) none))).map (fun x => x.1) = some .empty ∧
      responseOf (exec (.release 1) (block (ready kermit) none)) = answer .errNoInstance 0 [] := by decide

/-! ### Checks in order (L2.7), reversal, tables, packed responses -/

theorem test_checks_in_order :
    responseOf (perform { cmd := 0x00010013#32, payload := [] } (block (fresh xmodem) (some 4))) =
        answer .errIllegal 0 [] ∧
      responseOf (perform { cmd := 0x00000013#32, payload := [1, 2, 3, 4, 5] } (block (fresh xmodem) (some 4))) =
        answer .errLength 0 [] ∧
      responseOf (perform { cmd := 0x00000013#32, payload := [1] } (block (fresh xmodem) (some 4))) =
        answer .errNoInstance 0 [] := by decide

/-- L2.7: MAX_PAYLOAD is inclusive. -/
theorem test_bound_is_inclusive :
    responseOf (perform { cmd := 0x00000003#32, payload := [0x31, 0x32, 0x33, 0x34] } (block (fresh xmodem) (some 4))) =
        answer .ok 0xD789 [] ∧
      responseOf (perform { cmd := 0x00000003#32, payload := [0x31, 0x32, 0x33, 0x34, 0x35] }
        (block (fresh xmodem) (some 4))) = answer .errLength 0 [] := by decide +kernel

/-- L2.1. -/
theorem test_rev : rev8 0x12 = 0x48 ∧ rev16 0x1234 = 0x2C48 ∧ rev16 0x2189 = 0x9184 := by decide +kernel

/-- L2.2: entries in the middle of the tables of the presets, and of the degenerate polynomials. -/
theorem test_table_entries :
    tableEntry 0x1021 false 0x5A = 0xFBBF ∧ tableEntry 0x1021 true 0xA7 = 0xD1B5 ∧ tableEntry 0x8005 false 0x3C = 0x0088 ∧
      tableEntry 0x8005 true 0xC3 = 0x5140 ∧ tableEntry 0xFFFF true 0x01 = 0x0200 ∧
      tableEntry 0x0001 true 0xFF = 0xFF00 ∧ tableEntry 0x0000 true 0xFF = 0 := by decide +kernel

/-- P1 and P3. -/
theorem test_pack_response :
    packResponse { status := .ok, data := 0x31C3, out := [] } = 0x000031C3#32 ∧
      packResponse { status := .ok, data := 0, out := [0x31, 0xC3] } = 0x00010000#32 ∧
      packResponse { status := .errNoInstance, data := 0, out := [] } = 0x20000000#32 ∧
      packResponse { status := .errIllegal, data := 0, out := [] } = 0x10000000#32 := by decide

/-! ### The assembler: lines of L3 -/

theorem test_assemble_construct :
    assemble "CONSTRUCT s1, poly=0x1021, init=0xFFFF, xorout=0x0000, refin=1, refout=1, order=little" =
      some { cmd := 0x10210B11#32, payload := [0xFF, 0xFF, 0x00, 0x00] } := by decide +kernel

theorem test_assemble_checksum_joined :
    assemble "CHECKSUM s1, \"123456789\" ++ [0x6E, 0x90]" =
      some { cmd := 0x00000013#32, payload := nine ++ [0x6E, 0x90] } := by decide +kernel

theorem test_assemble_update :
    assemble "UPDATE s0, 0xA471, \"6789\"" = some { cmd := 0xA4710004#32, payload := [0x36, 0x37, 0x38, 0x39] } := by
  decide +kernel

theorem test_assemble_short_lines :
    assemble "PRESET s0, KERMIT" = some { cmd := 0x00000102#32, payload := [] } ∧
      assemble "TO_BYTES s0, 0x906E" = some { cmd := 0x906E0005#32, payload := [] } ∧
      assemble "READ_TABLE s0, 0xFF" = some { cmd := 0x0000FF07#32, payload := [] } ∧
      assemble "CHECKSUM s0, []" = some { cmd := 0x00000003#32, payload := [] } ∧
      assemble "RELEASE s0" = some { cmd := 0x00000008#32, payload := [] } := by decide +kernel

/-- A keyword twice, or a missing one, is no line (R85). -/
theorem test_assemble_rejects :
    assemble "CONSTRUCT s1, poly=1, poly=1, xorout=0, refin=1, refout=1, order=little" = none ∧
      assemble "READ_TABLE s0, 256" = none := by decide +kernel

theorem test_response_text :
    responseText { status := .ok, data := 0, out := [0x31, 0xC3] } = "-> OK, 0x0000, [0x31, 0xC3]".toList := by
  decide +kernel

/-! ### Witnesses: states and operands that meet the hypotheses of each obligation -/

/-- The state of the tests meets the invariant, for a faithful live slot. -/
theorem block_inv (cfg : Configuration) (bound : Option Nat) :
    Inv (block (ready cfg) bound) ∧ Inv (block (fresh cfg) bound) := by
  constructor <;> constructor <;> simp [block, State.numSlots, State.numRequesters, ready, fresh, Slot.reset, inOrder]

/-- Requester 1 has one answered request and one pending one. -/
def busy (pending : Request) : State :=
  { block (ready xmodem) (some 4) with
    requesters :=
      [[], [{ request := { cmd := 0x00000002#32, payload := [] }, response := answer .ok 0 [] },
        { request := pending, response := none }]] }

/-- READ_TABLE s0, 0x01. -/
def readOne : Request := { cmd := 0x00000107#32, payload := [] }

theorem witness_DecodeCheckIsLegal :
    (block (fresh xmodem) none).numSlots = 2 ∧ legal 2 { cmd := 0x00000009#32, payload := [] } = false ∧
      legal 2 { cmd := 0x00000018#32, payload := [] } = true ∧ legal 2 { cmd := 0x00000028#32, payload := [] } = false ∧
      legal 2 { cmd := 0x10210801#32, payload := [0, 0, 0, 0] } = true ∧
      legal 2 { cmd := 0x10210C01#32, payload := [0, 0, 0, 0] } = false ∧
      legal 2 { cmd := 0x10210801#32, payload := [0, 0, 0] } = false := by decide

theorem witness_DecodeOfEncodeIsInstruction :
    (Instr.construct 15 0xFFFF .none true false 0x1234 0xFFFF).wf 16 = true ∧
      (Instr.update 0 0xFFFF []).wf 1 = true := by decide

theorem witness_EncodeOfDecodeIsRequest :
    decode 16 { cmd := 0x000003F2#32, payload := [] } = .ok (.preset 15 .modbus) := by rfl

theorem witness_ReservedOpcodesAreIllegal :
    (opcOf 0x12345670#32).toNat = 0 ∧ 9 ≤ (opcOf 0x00000009#32).toNat ∧ 9 ≤ (opcOf 0x0000000F#32).toNat := by decide

theorem witness_StepRunsDecodedInstruction :
    (busy readOne).choose = some { requester := 1, request := readOne, arbitration := [], draws := 0 } ∧
      decode (busy readOne).numSlots readOne = .ok (.readTable 0 1) ∧
      (busy { cmd := 9, payload := [] }).choose =
        some { requester := 1, request := { cmd := 9, payload := [] }, arbitration := [], draws := 0 } ∧
      decode (busy readOne).numSlots { cmd := 9, payload := [] } = .error .reservedOpcode := ⟨rfl, rfl, rfl, rfl⟩

theorem witness_ChoiceServesAnyPendingRequester :
    (busy readOne).pendingOf 1 = some readOne ∧ (busy readOne).choose ≠ none ∧
      (block (fresh xmodem) none).choose = none := by decide

theorem witness_StepAnswersChosenRequester :
    (busy readOne).choose = some { requester := 1, request := readOne, arbitration := [], draws := 0 } ∧
      receivedAfter 1 (step (busy readOne)) = some [answer .ok 0 [], answer .ok 0x1021 []] := by decide +kernel

theorem witness_IdleBlockHoldsState : ∀ q, (block (ready xmodem) none).pendingOf q = none := by
  intro q
  rcases q with _ | _ | q <;> rfl

theorem witness_AnsweredRequestsNeverChange :
    (∃ t, step (busy readOne) = .next t) ∧ (busy readOne).requesters[1]? = some [
        { request := { cmd := 0x00000002#32, payload := [] }, response := answer .ok 0 [] },
        { request := readOne, response := none }] ∧ answer .ok 0 [] ≠ none :=
  ⟨step_next _, rfl, by decide⟩

theorem witness_StepKeepsInvariant :
    Inv (block (ready x25) (some 4)) ∧ ∃ t, step (block (ready x25) (some 4)) = .next t :=
  ⟨(block_inv _ _).1, step_next _⟩

/-- The bounds of the parameters: NUM_SLOTS 1 and 16, one requester and several, MAX_PAYLOAD 0 and UNBOUNDED. -/
theorem witness_ResetMeetsInvariant :
    Config.wf { numSlots := 1, numRequesters := 1, maxPayload := some 0 } ∧
      Config.wf { numSlots := 16, numRequesters := 3, maxPayload := none } ∧ Inv (block (fresh x25) none) :=
  ⟨by decide, by decide, (block_inv _ _).2⟩

theorem witness_RunsStaySafe : Inv (block (fresh kermit) (some 4)) := (block_inv _ _).2

theorem witness_StepKeepsParameters : ∃ t, step (busy readOne) = .next t := step_next _

theorem witness_OnlyCreationSucceedsAfterReset :
    legal 2 readOne = true ∧ opcOf readOne.cmd ≠ 0x1#4 ∧ opcOf readOne.cmd ≠ 0x2#4 ∧
      ¬ ((opcOf readOne.cmd = 0x3#4 ∨ opcOf readOne.cmd = 0x4#4) ∧ tooLong (some 4) readOne.payload = true) ∧
      legal 2 { cmd := 0x00000013#32, payload := [1, 2, 3, 4] } = true ∧ tooLong (some 4) [1, 2, 3, 4] = false := by decide

theorem witness_ConstructBeginsEngine : (15#4).toNat < State.reset.numSlots ∧ (1#4).toNat < (block (ready xmodem) none).numSlots :=
  by decide

theorem witness_PresetBeginsEngine : (15#4).toNat < State.reset.numSlots ∧ (0#4).toNat < (block (ready xmodem) none).numSlots :=
  by decide

theorem witness_ReleaseEndsEngine :
    (block (ready xmodem) none).slots[(0#4).toNat]? = some (ready xmodem) ∧ (ready xmodem).valid = true := ⟨rfl, rfl⟩

/-- A built slot and an unbuilt one, a payload of exactly MAX_PAYLOAD bytes. -/
theorem witness_ChecksumAnswersCrc :
    ((block (ready xmodem) (some 9)).slots[(0#4).toNat]? = some (ready xmodem) ∧ (ready xmodem).valid = true ∧
      (ready xmodem).faithful) ∧
    ((block (fresh x25) (some 9)).slots[(0#4).toNat]? = some (fresh x25) ∧ (fresh x25).valid = true ∧
      (fresh x25).faithful) ∧ tooLong (some 9) nine = false :=
  ⟨⟨rfl, rfl, fun _ => rfl⟩, ⟨rfl, rfl, by intro h; cases h⟩, by decide⟩

theorem witness_UpdateAnswersCrc :
    (block (fresh noOrder) (some 0)).slots[(0#4).toNat]? = some (fresh noOrder) ∧ (fresh noOrder).valid = true ∧
      (fresh noOrder).faithful ∧ tooLong (some 0) [] = false :=
  ⟨rfl, rfl, (by intro h; cases h), by decide⟩

theorem witness_ToBytesAnswersBytes :
    (block (fresh noOrder) none).slots[(0#4).toNat]? = some (fresh noOrder) ∧ (fresh noOrder).valid = true := ⟨rfl, rfl⟩

theorem witness_BuildTableBuildsTable :
    (block (fresh kermit) none).slots[(0#4).toNat]? = some (fresh kermit) ∧ (fresh kermit).valid = true ∧
      (fresh kermit).faithful := ⟨rfl, rfl, by intro h; cases h⟩

theorem witness_ReadTableAnswersEntry :
    (block (ready kermit) none).slots[(0#4).toNat]? = some (ready kermit) ∧ (ready kermit).valid = true ∧
      (ready kermit).faithful := ⟨rfl, rfl, fun _ => rfl⟩

/-- Both sides of the equivalence occur, each way. -/
theorem witness_IllegalExactlyWhenNotLegal :
    responseOf (perform { cmd := 9, payload := [] } (block (fresh xmodem) none)) = answer .errIllegal 0 [] ∧
      legal 2 { cmd := 9, payload := [] } = false ∧ legal 2 readOne = true ∧
      responseOf (perform readOne (block (fresh xmodem) none)) = answer .ok 0x1021 [] := by decide +kernel

theorem witness_NoInstanceExactlyWhenEmpty :
    responseOf (perform { cmd := 0x00000018#32, payload := [] } (block (fresh xmodem) none)) =
        answer .errNoInstance 0 [] ∧ legal 2 { cmd := 0x00000018#32, payload := [] } = true ∧
      (block (fresh xmodem) none).slots[1]? = some Slot.reset ∧ Slot.reset.valid = false := by decide +kernel

/-- Clause 1 at the bound and one above it; clause 2 with UNBOUNDED. -/
theorem witness_LengthErrorExactlyAboveBound :
    responseOf (perform { cmd := 0x00000003#32, payload := [0] } (block (fresh xmodem) (some 0))) =
        answer .errLength 0 [] ∧
      responseOf (perform { cmd := 0x00000003#32, payload := [] } (block (fresh xmodem) (some 0))) = answer .ok 0 [] ∧
      responseOf (perform { cmd := 0x00000003#32, payload := nine } (block (fresh xmodem) none)) =
        answer .ok 0x31C3 [] := by decide +kernel

theorem witness_PassingRequestsAnswerOk :
    legal 2 { cmd := 0xFFFF0004#32, payload := [] } = true ∧ tooLong (some 0) [] = false ∧
      (block (fresh xmodem) (some 0)).slots[(slotOf 0xFFFF0004#32).toNat]? = some (fresh xmodem) ∧
      (fresh xmodem).valid = true ∧ legal 2 { cmd := 0x00000012#32, payload := [] } = true ∧ opcOf 0x00000012#32 = 0x2#4 := by
  decide +kernel

theorem witness_ErrorResponsesChangeNothing :
    responseOf (perform { cmd := 0x00000018#32, payload := [] } (block (fresh xmodem) none)) =
      answer .errNoInstance 0 [] ∧ Status.errNoInstance ≠ .ok := by decide

/-- One request per clause: illegal, too long, empty slot, passing. -/
theorem witness_ChecksRunInOrder :
    legal 2 { cmd := 0x00010013#32, payload := [] } = false ∧
      decode 2 { cmd := 0x00000013#32, payload := [1, 2, 3, 4, 5] } = .ok (.checksum 1 [1, 2, 3, 4, 5]) ∧
      tooLong (some 4) (Instr.checksum 1 [1, 2, 3, 4, 5]).data = true ∧
      decode 2 { cmd := 0x00000018#32, payload := [] } = .ok (.release 1) ∧
      tooLong (some 4) (Instr.release 1).data = false ∧ (Instr.release 1).creates = false ∧
      (block (fresh xmodem) (some 4)).slots[(Instr.release 1).slot.toNat]? = some Slot.reset ∧ Slot.reset.valid = false :=
  ⟨rfl, rfl, rfl, rfl, rfl, rfl, rfl, rfl⟩

theorem witness_ResponseShape :
    responseOf (perform { cmd := 0x21890005#32, payload := [] } (block (fresh kermit) none)) =
        answer .ok 0 [0x89, 0x21] ∧
      responseOf (perform { cmd := 0x21890005#32, payload := [] } (block (fresh noOrder) none)) = answer .ok 0 [] := by
  decide

theorem witness_PackedResponseCarriesSame :
    ([0x31, 0xC3] : List Byte).length = 2 ∧
      unpackResponse 0x00010000#32 [0x31, 0xC3] = answer .ok 0 [0x31, 0xC3] ∧
      unpackResponse 0x20000000#32 [] = answer .errNoInstance 0 [] := by decide

theorem witness_ReversalsSwapBits : 0 < 8 ∧ 7 < 8 ∧ 0 < 16 ∧ 15 < 16 := by decide

theorem witness_LazyBuildIsTheWriteLoop : (fresh kermit).tstate = .unbuilt ∧ (ready kermit).tstate = .built := ⟨rfl, rfl⟩

/-- Engines that agree in POLY and REFIN only, one built and one not, in two blocks. -/
theorem witness_TableDependsOnPolyAndRefin :
    (block (fresh x25) none).slots[(0#4).toNat]? = some (fresh x25) ∧
      (block (ready kermit) none).slots[(0#4).toNat]? = some (ready kermit) ∧ (fresh x25).valid = true ∧
      (ready kermit).valid = true ∧ (fresh x25).faithful ∧ (ready kermit).faithful ∧
      (fresh x25).cfg.poly = (ready kermit).cfg.poly ∧ (fresh x25).cfg.refin = (ready kermit).cfg.refin :=
  ⟨rfl, rfl, rfl, rfl, (by intro h; cases h), fun _ => rfl, rfl, rfl⟩

/-- A built slot and an unbuilt one, under a command that uses the table; a reconfiguring command on another slot. -/
theorem witness_BuiltTableIsReadOnly :
    (∃ t, exec (.readTable 0 1) (block (ready kermit) none) = .next t) ∧
      (block (ready kermit) none).slots[0]? = some (ready kermit) ∧ (ready kermit).tstate = .built ∧
      (∃ t, exec (.readTable 0 1) (block (fresh kermit) none) = .next t) ∧
      (block (fresh kermit) none).slots[0]? = some (fresh kermit) ∧ (fresh kermit).tstate = .unbuilt ∧
      ¬ ((Instr.readTable 0 1).reconfigures = true ∧ 0 = (Instr.readTable 0 1).slot.toNat) ∧
      (∃ t, exec (.preset 1 .modbus) (block (ready kermit) none) = .next t) ∧
      ¬ ((Instr.preset 1 .modbus).reconfigures = true ∧ 0 = (Instr.preset 1 .modbus).slot.toNat) :=
  ⟨⟨_, rfl⟩, rfl, rfl, ⟨_, rfl⟩, rfl, rfl, by decide, ⟨_, rfl⟩, by decide⟩

theorem witness_TablesAreLinear :
    (ready xmodem).table = build 0x1021 false ∧ (ready kermit).table = build 0x1021 true := ⟨rfl, rfl⟩

theorem witness_ReflectedTableIsLsbFirst : (ready kermit).table = build 0x1021 true := rfl

theorem witness_FeedFollowsLoop : (fresh xmodem).cfg.refin = false ∧ (fresh kermit).cfg.refin = true := ⟨rfl, rfl⟩

theorem witness_OutputTransformsInverse : x25.refout = true ∧ noOrder.refout = false := ⟨rfl, rfl⟩

theorem witness_PresetCheckValues :
    (15#4).toNat < State.reset.numSlots ∧ tooLong State.reset.maxPayload nine = false ∧ tooLong (some 9) nine = false := by
  decide

theorem witness_UpdateComposesWithChecksum :
    (block (fresh noOrder) (some 9)).slots[(0#4).toNat]? = some (fresh noOrder) ∧ (fresh noOrder).valid = true ∧
      (fresh noOrder).faithful ∧ tooLong (some 9) ([0x31, 0x32, 0x33, 0x34, 0x35] ++ [0x36, 0x37, 0x38, 0x39]) = false :=
  ⟨rfl, rfl, (by intro h; cases h), by decide⟩

/-- A configuration of each kind, XOROUT 0 and not, with a block for it. -/
theorem witness_AppendedCrcGivesConstant :
    (xmodem.refin = false ∧ xmodem.refout = false ∧ xmodem.bord = .big ∧ xmodem.xorout = 0) ∧
      (x25.refin = true ∧ x25.refout = true ∧ x25.bord = .little ∧ x25.xorout ≠ 0) ∧
      (block (ready x25) (some 9)).slots[(0#4).toNat]? = some (ready x25) ∧ (ready x25).valid = true ∧
      (ready x25).faithful ∧ (ready x25).cfg = x25 ∧ tooLong (some 9) nine = false ∧ tooLong (some 9) [0, 0] = false :=
  ⟨⟨rfl, rfl, rfl, rfl⟩, ⟨rfl, rfl, rfl, by decide⟩, rfl, rfl, fun _ => rfl, rfl, by decide, by decide⟩

theorem witness_TableFeedIsBitSerial : (ready x25).table = build (ready x25).cfg.poly (ready x25).cfg.refin := rfl

/-- One slot per byte order. -/
theorem witness_SerializationRoundTrips :
    (block (fresh xmodem) none).slots[(0#4).toNat]? = some (fresh xmodem) ∧ (fresh xmodem).valid = true ∧
      (fresh xmodem).cfg.bord = .big ∧ (fresh kermit).cfg.bord = .little ∧ (fresh noOrder).cfg.bord = .none :=
  ⟨rfl, rfl, rfl, rfl, rfl⟩

/-- The clauses of the lifecycle: OK and error responses, live and empty slots, within the bound. -/
theorem witness_LifecycleFollowsTable :
    (block (fresh xmodem) (some 4)).slots[(Instr.checksum 0 []).slot.toNat]? = some (fresh xmodem) ∧
      (Instr.checksum 0 []).creates = false ∧ tooLong (some 4) (Instr.checksum 0 []).data = false ∧
      (fresh xmodem).lifecycle ≠ .empty ∧
      (block (fresh xmodem) (some 4)).slots[(Instr.release 1).slot.toNat]? = some Slot.reset ∧
      Slot.reset.lifecycle = .empty ∧ tooLong (some 4) (Instr.checksum 0 [1, 2, 3, 4, 5]).data = true ∧
      responseOf (perform { cmd := 9, payload := [] } (block (fresh xmodem) (some 4))) = answer .errIllegal 0 [] :=
  ⟨rfl, rfl, rfl, by decide, rfl, rfl, rfl, rfl⟩

/-- Two slots with equal configurations. -/
def twins : State := { block (fresh kermit) none with slots := [fresh kermit, fresh kermit] }

theorem witness_SlotsAreIndependent :
    (0#4) ≠ 1#4 ∧ twins.slots[(0#4).toNat]? = some (fresh kermit) ∧ twins.slots[(1#4).toNat]? = some (fresh kermit) ∧
      (fresh kermit).valid = true ∧ (fresh kermit).tstate = .unbuilt ∧
      twins.slots[(Instr.checksum 0 nine).slot.toNat]? = (block (fresh kermit) none).slots[(Instr.checksum 0 nine).slot.toNat]? ∧
      twins.maxPayload = (block (fresh kermit) none).maxPayload :=
  ⟨by decide, rfl, rfl, rfl, rfl, rfl, rfl⟩

/-- A built and an unbuilt slot of one configuration are alike, whatever the unbuilt table holds. -/
theorem witness_HiddenStateUnobservable : Alike (block (ready kermit) none) (block (fresh kermit) none) := by
  constructor <;> simp [block, ready, fresh, Slot.reset, Slot.visible]

theorem witness_TableUsersCommute :
    slotOf readOne.cmd = slotOf 0x00000003#32 ∧
      ∀ c ∈ [0x1#4, 0x2#4, 0x8#4], opcOf readOne.cmd ≠ c ∧ opcOf 0x00000003#32 ≠ c := by decide

theorem witness_ConfigurationNeverMutated :
    (∃ t, exec (.checksum 0 []) (block (fresh kermit) none) = .next t) ∧
      (block (fresh kermit) none).slots[0]? = some (fresh kermit) ∧
      ¬ ((Instr.checksum 0 []).reconfigures = true ∧ 0 = (Instr.checksum 0 []).slot.toNat) ∧
      (∃ t, exec (.release 1) (block (fresh kermit) none) = .next t) ∧
      ¬ ((Instr.release 1).reconfigures = true ∧ 0 = (Instr.release 1).slot.toNat) :=
  ⟨⟨_, rfl⟩, rfl, by decide, ⟨_, rfl⟩, by decide⟩

theorem witness_RepeatedCommands :
    (Instr.preset 1 .kermit).creates = true ∧ (Instr.preset 1 .kermit).wf (block (ready xmodem) none).numSlots = true ∧
      (block (ready xmodem) none).slots[(0#4).toNat]? = some (ready xmodem) ∧ (ready xmodem).valid = true ∧
      (Instr.update 0 1 nine).reconfigures = false :=
  ⟨rfl, rfl, rfl, rfl, rfl⟩

theorem witness_ConstructKeywordsInAnyOrder :
    List.Perm [(Keyword.poly, Token.num 1), (Keyword.init, Token.num 2)] [(Keyword.init, Token.num 2), (Keyword.poly, Token.num 1)] :=
  List.Perm.swap _ _ _

end Sys2Proof.Tests
end

/-! ### Proofs of the invariant: the shape of every answer, the slots after an effect, the requesters after an answer -/

namespace Sys2Proof.Machine

/-! #### The shape of an answer (R80, R221) -/

/-- Every response that `o` answers with has the shape of R80 and R221. -/
def AnswersWellShaped (o : Result) : Prop :=
  ∀ t r, o = .next t → t.response = some r → r.wellShaped

/-- An answer of one `respond` is well shaped when the response it gives is. -/
theorem answersWellShaped_respond {s : State} {st : Status} {d : Word} {o : List Byte} :
    AnswersWellShaped (.next (s.respond st d o)) ↔ Response.wellShaped { status := st, data := d, out := o } := by
  constructor
  · intro h
    exact h _ _ rfl rfl
  · intro h t r ht hr
    cases ht
    cases hr
    exact h

/-- An OK answer is well shaped when it has 0 or 2 output bytes. -/
theorem answersWellShaped_ok (s : State) (d : Word) {o : List Byte} (ho : o.length = 0 ∨ o.length = 2) :
    AnswersWellShaped (.next (s.respond .ok d o)) :=
  answersWellShaped_respond.mpr ⟨ho, fun h => absurd rfl h⟩

theorem answersWellShaped_raise (st : Status) (s : State) : AnswersWellShaped (raise st s) :=
  answersWellShaped_respond.mpr ⟨.inl rfl, fun _ => ⟨rfl, rfl⟩⟩

theorem answersWellShaped_onSlot {k : BitVec 4} {s : State} {body : Slot → Result}
    (h : ∀ sl, AnswersWellShaped (body sl)) : AnswersWellShaped (onSlot k s body) := by
  cases hk : s.slots[k.toNat]? with
  | none => rw [onSlot_none hk]; exact answersWellShaped_raise _ s
  | some sl => rw [onSlot_some hk]; exact h sl

theorem answersWellShaped_withinBound {data : List Byte} {s : State} {body : Result}
    (h : AnswersWellShaped body) : AnswersWellShaped (withinBound data s body) := by
  cases hl : tooLong s.maxPayload data with
  | true => rw [withinBound_long hl]; exact answersWellShaped_raise _ s
  | false => rw [withinBound_short hl]; exact h

theorem answersWellShaped_onLive {sl : Slot} {s : State} {body : Result}
    (h : AnswersWellShaped body) : AnswersWellShaped (onLive sl s body) := by
  cases hv : sl.valid with
  | false => rw [onLive_empty hv]; exact answersWellShaped_raise _ s
  | true => rw [onLive_valid hv]; exact h

theorem answersWellShaped_usingTable (k : BitVec 4) (sl : Slot) (s : State) (body : Slot → Word) :
    AnswersWellShaped (usingTable k sl s body) :=
  answersWellShaped_ok _ _ (.inl rfl)

theorem answersWellShaped_beginEngine (k : BitVec 4) (cfg : Configuration) (s : State) :
    AnswersWellShaped (beginEngine k cfg s) :=
  answersWellShaped_onSlot fun _ => answersWellShaped_ok _ _ (.inl rfl)

/-- The serializer gives no bytes or two (R200). -/
theorem length_serialize (v : Word) (bord : ByteOrder) :
    (serialize v bord).length = 0 ∨ (serialize v bord).length = 2 := by
  cases bord with
  | none => exact .inl rfl
  | big => exact .inr rfl
  | little => exact .inr rfl

/-- Every command answers with a well-shaped response (R80, R221). -/
theorem exec_answersWellShaped (i : Instr) (s : State) : AnswersWellShaped (exec i s) := by
  cases i with
  | construct k poly bord refout refin init xorout => exact answersWellShaped_beginEngine k _ s
  | preset k id => exact answersWellShaped_beginEngine k _ s
  | checksum k data =>
    exact answersWellShaped_onSlot fun sl =>
      answersWellShaped_withinBound (answersWellShaped_onLive (answersWellShaped_usingTable k sl s _))
  | update k prev data =>
    exact answersWellShaped_onSlot fun sl =>
      answersWellShaped_withinBound (answersWellShaped_onLive (answersWellShaped_usingTable k sl s _))
  | toBytes k value =>
    exact answersWellShaped_onSlot fun sl =>
      answersWellShaped_onLive (answersWellShaped_ok s 0 (length_serialize value sl.cfg.bord))
  | buildTable k =>
    exact answersWellShaped_onSlot fun sl => answersWellShaped_onLive (answersWellShaped_usingTable k sl s _)
  | readTable k index =>
    exact answersWellShaped_onSlot fun sl => answersWellShaped_onLive (answersWellShaped_usingTable k sl s _)
  | release k =>
    exact answersWellShaped_onSlot fun _ => answersWellShaped_onLive (answersWellShaped_ok _ _ (.inl rfl))

/-- Every request, decoded or not, is answered with a well-shaped response. -/
theorem perform_answersWellShaped (r : Request) (s : State) : AnswersWellShaped (perform r s) := by
  cases h : decode s.numSlots r with
  | error e => rw [perform_of_error h]; exact answersWellShaped_raise _ s
  | ok i => rw [perform_of_decode h]; exact exec_answersWellShaped i s

/-- The step, inverted, with the shape of the response it gives. -/
theorem step_cases_wellShaped (s : State) :
    step s = .next s ∨
      ∃ t k u st d o, Effect k (s.takeTurn t) u ∧ Response.wellShaped { status := st, data := d, out := o } ∧
        step s = .next ((u.respond st d o).route t.requester) := by
  cases h : s.choose with
  | none => exact .inl (step_idle h)
  | some t =>
    obtain ⟨k, u, st, d, o, hu, hp⟩ := perform_effect t.request (s.takeTurn t)
    have hshape := perform_answersWellShaped t.request (s.takeTurn t)
    rw [hp, answersWellShaped_respond] at hshape
    exact .inr ⟨t, k, u, st, d, o, hu, hshape, by rw [step_chosen h, hp]; rfl⟩

/-! #### The slots after an effect (R34, R263) -/

/-- A property of all slots survives an effect when the lazy build of a live slot keeps it and the slots in which an
engine begins or ends have it. -/
theorem Effect.forall_slots {P : Slot → Prop} {k : BitVec 4} {s u : State} (h : Effect k s u)
    (hs : ∀ sl ∈ s.slots, P sl) (hbuild : ∀ sl, sl.valid = true → P sl → P (ensureTable sl))
    (hbegin : ∀ cfg d, P (Slot.begin cfg d)) (hended : ∀ d, P (Slot.ended d)) : ∀ sl ∈ u.slots, P sl := by
  have written : ∀ sl', P sl' → ∀ sl ∈ s.slots.set k.toNat sl', P sl := by
    intro sl' hP sl hsl
    rcases List.mem_or_eq_of_mem_set hsl with hold | rfl
    · exact hs sl hold
    · exact hP
  cases h with
  | keep => exact hs
  | table sl hk hv => exact written _ (hbuild sl hv (hs sl (List.mem_of_getElem? hk)))
  | start sl hk cfg => exact written _ (hbegin cfg s.draws)
  | stop sl hk hv => exact written _ (hended s.draws)

/-- An unbuilt slot is faithful: it promises nothing of its table (R27). -/
theorem faithful_of_unbuilt {sl : Slot} (h : sl.tstate = .unbuilt) : sl.faithful := by
  intro hb
  simp [h] at hb

/-- The lazy build keeps a slot faithful (R34, R137). -/
theorem ensureTable_faithful {sl : Slot} (h : sl.faithful) : (ensureTable sl).faithful := by
  intro _
  rw [ensureTable_cfg]
  exact ensureTable_table sl h

/-- Effects keep every built table its configuration's table (R34). -/
theorem Effect.keeps_faithful {k : BitVec 4} {s u : State} (h : Effect k s u) (hs : ∀ sl ∈ s.slots, sl.faithful) :
    ∀ sl ∈ u.slots, sl.faithful :=
  h.forall_slots hs (fun _ _ hsl => ensureTable_faithful hsl) (fun _ _ => faithful_of_unbuilt rfl)
    (fun _ => faithful_of_unbuilt rfl)

/-- Effects keep every empty slot UNBUILT (R263): only a live slot gets a table. -/
theorem Effect.keeps_emptyUnbuilt {k : BitVec 4} {s u : State} (h : Effect k s u)
    (hs : ∀ sl ∈ s.slots, sl.emptyUnbuilt) : ∀ sl ∈ u.slots, sl.emptyUnbuilt := by
  refine h.forall_slots hs (fun sl hv _ hempty => ?_) (fun _ _ _ => rfl) (fun _ _ => rfl)
  simp [hv] at hempty

/-! #### The requesters after an answer (R36, R232) -/

/-- Behind an answered request the order is that of the rest. -/
theorem inOrder_cons_answered {e : Issued} (h : e.response.isSome = true) (rest : List Issued) :
    inOrder (e :: rest) = inOrder rest := by
  simp [inOrder, h]

/-- Behind a pending request every request is pending. -/
theorem inOrder_cons_pending {e : Issued} (h : e.response.isNone = true) (rest : List Issued) :
    inOrder (e :: rest) = rest.all fun e => e.response.isNone := by
  simp only [Option.isNone_iff_eq_none] at h
  simp [inOrder, h]

/-- A sequence of pending requests is in order. -/
theorem inOrder_of_all_pending {seq : List Issued} (h : (seq.all fun e => e.response.isNone) = true) :
    inOrder seq = true :=
  List.all_eq_true.mpr fun e he => List.all_eq_true.mp h e ((List.dropWhile_suffix _).subset he)

/-- Answering the oldest pending request keeps the responses in issue order (R232). -/
theorem inOrder_answerOldest (r : Response) {seq : List Issued} (h : inOrder seq = true) :
    inOrder (answerOldest r seq) = true := by
  induction seq with
  | nil => rfl
  | cons e rest ih =>
    cases he : e.response with
    | none =>
      have hrest : (rest.all fun e => e.response.isNone) = true := by
        rwa [inOrder_cons_pending (by simp [he])] at h
      simp only [answerOldest, he, Option.isNone_none, if_true]
      rw [inOrder_cons_answered rfl]
      exact inOrder_of_all_pending hrest
    | some r' =>
      rw [inOrder_cons_answered (by simp [he])] at h
      simp only [answerOldest, he, Option.isNone_some, Bool.false_eq_true, if_false]
      rw [inOrder_cons_answered (by simp [he])]
      exact ih h

/-- After an answer an entry is one of before, or it carries the response just given. -/
theorem mem_answerOldest {r : Response} {seq : List Issued} {e : Issued} (h : e ∈ answerOldest r seq) :
    e ∈ seq ∨ e.response = some r := by
  induction seq with
  | nil => exact .inl h
  | cons x rest ih =>
    simp only [answerOldest] at h
    split at h
    · rcases List.mem_cons.mp h with rfl | hrest
      · exact .inr rfl
      · exact .inl (List.mem_cons_of_mem x hrest)
    · rcases List.mem_cons.mp h with rfl | hrest
      · exact .inl List.mem_cons_self
      · exact (ih hrest).imp_left (List.mem_cons_of_mem x)

/-- After routing a response a sequence is one of before, or one of before with its oldest pending request answered. -/
theorem State.mem_route_requesters {s : State} {q : Nat} {r : Response} (h : s.response = some r)
    {seq : List Issued} (hseq : seq ∈ (s.route q).requesters) :
    seq ∈ s.requesters ∨ ∃ old ∈ s.requesters, seq = answerOldest r old := by
  rw [State.route_requesters s q r h] at hseq
  obtain ⟨j, hj, rfl⟩ := List.mem_iff_getElem.mp hseq
  rw [List.getElem_modify]
  split
  · exact .inr ⟨_, List.getElem_mem _, rfl⟩
  · exact .inl (List.getElem_mem _)

@[simp] theorem State.length_route_requesters (s : State) (q : Nat) :
    (s.route q).requesters.length = s.requesters.length := by
  unfold State.route
  split <;> simp

/-! #### The invariant -/

/-- Taking a turn keeps the invariant, which speaks of no arbitration and no counter. -/
theorem Inv.takeTurn {s : State} (h : Inv s) (t : Turn) : Inv (s.takeTurn t) := { h with }

/-- An effect followed by a well-shaped response, given to its requester, keeps the invariant. -/
theorem Inv.answered {s u : State} {k : BitVec 4} {st : Status} {d : Word} {o : List Byte} (h : Inv s)
    (hu : Effect k s u) (hshape : Response.wellShaped { status := st, data := d, out := o }) (q : Nat) :
    Inv ((u.respond st d o).route q) := by
  obtain ⟨hlen, hreq, -, -, -⟩ := hu.frame
  have hcases : ∀ seq ∈ ((u.respond st d o).route q).requesters,
      seq ∈ s.requesters ∨ ∃ old ∈ s.requesters, seq = answerOldest { status := st, data := d, out := o } old := by
    intro seq hseq
    simpa only [State.respond_requesters, hreq] using State.mem_route_requesters rfl hseq
  constructor
  case slots_bounds => simpa [State.numSlots, hlen] using h.slots_bounds
  case requesters_pos => simpa [State.numRequesters, hreq] using h.requesters_pos
  case faithful => simpa using hu.keeps_faithful h.faithful
  case empty_unbuilt => simpa using hu.keeps_emptyUnbuilt h.empty_unbuilt
  case in_order =>
    intro seq hseq
    rcases hcases seq hseq with hold | ⟨old, hold, rfl⟩
    · exact h.in_order seq hold
    · exact inOrder_answerOldest _ (h.in_order old hold)
  case shaped =>
    intro seq hseq e he r hr
    rcases hcases seq hseq with hold | ⟨old, hold, rfl⟩
    · exact h.shaped seq hold e he r hr
    · rcases mem_answerOldest he with hbefore | hgiven
      · exact h.shaped old hold e hbefore r hr
      · cases hgiven.symm.trans hr
        exact hshape
  case nothing_in_flight => exact State.route_response _ q

/-- Settles O13, by the inversion of the step: it holds the state, or it performs one effect and gives its requester one
well-shaped response. -/
theorem stepKeepsInvariant : Obligations.StepKeepsInvariant := by
  intro s t hs hstep
  rcases step_cases_wellShaped s with hidle | ⟨turn, k, u, st, d, o, hu, hshape, hnext⟩
  · cases hidle.symm.trans hstep
    exact hs
  · cases hnext.symm.trans hstep
    exact (hs.takeTurn turn).answered hu hshape turn.requester

end Sys2Proof.Machine

/-! ### Proofs about the state: what commands keep of a slot and show of it, parameters, the record of answers, the
invariant at reset -/

namespace Sys2Proof.Machine

/-! #### The four forms of a command -/

/-- No data are too long for no bound (R224). -/
@[simp] theorem tooLong_nil (maxPayload : Option Nat) : tooLong maxPayload [] = false := by
  cases maxPayload with
  | none => rfl
  | some bound => simp [tooLong]

/-- A command without data passes the length check (R224). -/
@[simp] theorem withinBound_nil (s : State) (body : Result) : withinBound [] s body = body :=
  withinBound_short (tooLong_nil _) body

/-- What a command's meaning is made of: it begins an engine, uses the table of its slot after the three checks of
R225, serializes, or ends an engine. -/
inductive ExecForm (i : Instr) : Prop
  | begins (hi : i.reconfigures = true) (cfg : Configuration) (h : ∀ s, exec i s = beginEngine i.slot cfg s)
  | usesTable (hi : i.reconfigures = false) (body : Slot → Word)
      (h : ∀ s, exec i s = onSlot i.slot s fun sl =>
        withinBound i.data s (onLive sl s (usingTable i.slot sl s body)))
  | serializes (hi : i.reconfigures = false) (value : Word) (h : ∀ s, exec i s = execToBytes i.slot value s)
  | ends (hi : i.reconfigures = true) (h : ∀ s, exec i s = execRelease i.slot s)

/-- Every command has one of the four forms. -/
theorem exec_form (i : Instr) : ExecForm i := by
  cases i with
  | construct k poly bord refout refin init xorout => exact .begins rfl _ fun _ => rfl
  | preset k id => exact .begins rfl _ fun _ => rfl
  | checksum k data => exact .usesTable rfl _ fun _ => rfl
  | update k prev data => exact .usesTable rfl _ fun _ => rfl
  | toBytes k value => exact .serializes rfl value fun _ => rfl
  | buildTable k =>
    exact .usesTable rfl (fun _ => 0) fun s => by simp [exec, execBuildTable, Instr.slot, Instr.data]
  | readTable k index =>
    exact .usesTable rfl (fun built => tRead built index) fun s => by
      simp [exec, execReadTable, Instr.slot, Instr.data]
  | release k => exact .ends rfl fun _ => rfl

/-! #### What a command that neither begins nor ends an engine leaves (R30, R102, R137) -/

/-- Such a command responds from the state itself or from the lazy build of its live slot. -/
theorem exec_keeps_or_builds {i : Instr} {s t : State} (hi : i.reconfigures = false) (h : exec i s = .next t) :
    ∃ u st d o, t = State.respond u st d o ∧
      (u = s ∨ ∃ sl, s.slots[i.slot.toNat]? = some sl ∧ sl.valid = true ∧ u = s.setSlot i.slot (ensureTable sl)) := by
  cases exec_form i with
  | begins hr => simp [hi] at hr
  | ends hr => simp [hi] at hr
  | usesTable _ body hexec =>
    rw [hexec] at h
    rcases onSlot_next h with ⟨-, rfl⟩ | ⟨sl, hk, h⟩
    · exact ⟨s, _, _, _, rfl, .inl rfl⟩
    rcases withinBound_next h with ⟨-, rfl⟩ | ⟨-, h⟩
    · exact ⟨s, _, _, _, rfl, .inl rfl⟩
    rcases onLive_next h with ⟨-, rfl⟩ | ⟨hv, h⟩
    · exact ⟨s, _, _, _, rfl, .inl rfl⟩
    cases h
    exact ⟨_, _, _, _, rfl, .inr ⟨sl, hk, hv, rfl⟩⟩
  | serializes _ value hexec =>
    rw [hexec] at h
    rcases onSlot_next h with ⟨-, rfl⟩ | ⟨_, -, h⟩
    · exact ⟨s, _, _, _, rfl, .inl rfl⟩
    rcases onLive_next h with ⟨-, rfl⟩ | ⟨-, h⟩
    · exact ⟨s, _, _, _, rfl, .inl rfl⟩
    cases h
    exact ⟨s, _, _, _, rfl, .inl rfl⟩

/-- A command changes no other slot (R106). -/
theorem exec_other_slots {i : Instr} {s t : State} (h : exec i s = .next t) {j : Nat} (hj : j ≠ i.slot.toNat) :
    t.slots[j]? = s.slots[j]? := by
  obtain ⟨u, st, d, o, hu, hexec⟩ := exec_effect i s
  cases hexec.symm.trans h
  exact hu.other_slots j hj

/-- Settles O54: on another slot by the frame of a command, on its own slot because only the lazy build writes it, which
keeps the configuration and VALID. -/
theorem configurationNeverMutated : Obligations.ConfigurationNeverMutated := by
  intro i s t j sl h hsl hno
  by_cases hj : j = i.slot.toNat
  · subst hj
    have hi : i.reconfigures = false := by simpa using hno
    obtain ⟨u, st, d, o, rfl, rfl | ⟨sl', hk, -, rfl⟩⟩ := exec_keeps_or_builds hi h
    · exact ⟨sl, hsl, rfl, rfl⟩
    · cases hk.symm.trans hsl
      have hlt := (List.getElem?_eq_some_iff.mp hsl).1
      exact ⟨ensureTable sl, by simp [hlt], ensureTable_cfg sl, ensureTable_valid sl⟩
  · exact ⟨sl, (exec_other_slots h hj).trans hsl, rfl, rfl⟩

/-! #### Hidden state (R34, I2, I3) -/

/-- A live slot shows its configuration. -/
theorem visible_of_valid {sl : Slot} (h : sl.valid = true) : sl.visible = some sl.cfg := by simp [Slot.visible, h]

/-- An empty slot shows nothing. -/
theorem visible_of_empty {sl : Slot} (h : sl.valid = false) : sl.visible = none := by simp [Slot.visible, h]

@[simp] theorem isSome_visible (sl : Slot) : sl.visible.isSome = sl.valid := by
  cases h : sl.valid with
  | false => rw [visible_of_empty h, Option.isSome_none]
  | true => rw [visible_of_valid h, Option.isSome_some]

/-- Of two slots that look the same both hold an engine or neither does. -/
theorem valid_eq_of_visible_eq {sl sl' : Slot} (h : sl.visible = sl'.visible) : sl.valid = sl'.valid := by
  rw [← isSome_visible sl, h, isSome_visible]

/-- The lazy build of a faithful slot, built or not, gives it its configuration's table and BUILT (R34, R137). -/
theorem ensureTable_of_faithful {sl : Slot} (h : sl.faithful) :
    ensureTable sl = { sl with table := build sl.cfg.poly sl.cfg.refin, tstate := .built } := by
  cases ht : sl.tstate with
  | unbuilt => exact ensureTable_of_unbuilt sl ht
  | built => rw [ensureTable_of_built sl ht, ← h ht, ← ht]

/-- Two faithful slots with the same VALID and configuration are the same after the lazy build, which forgets TSTATE and
the old table (R34, R136). -/
theorem ensureTable_eq_of_cfg_eq {sl sl' : Slot} (hv : sl.valid = sl'.valid) (hcfg : sl.cfg = sl'.cfg)
    (hf : sl.faithful) (hf' : sl'.faithful) : ensureTable sl = ensureTable sl' := by
  rw [ensureTable_of_faithful hf, ensureTable_of_faithful hf', hv, hcfg]

/-- Alike states have the same slots, and slots of one number that look the same. -/
theorem Alike.slot_cases {s s' : State} (h : Alike s s') (j : Nat) :
    (s.slots[j]? = none ∧ s'.slots[j]? = none) ∨
      ∃ sl sl', s.slots[j]? = some sl ∧ s'.slots[j]? = some sl' ∧ sl.visible = sl'.visible := by
  have hj : s.slots[j]?.map Slot.visible = s'.slots[j]?.map Slot.visible := by
    rw [← List.getElem?_map, h.visible_eq, List.getElem?_map]
  cases hs : s.slots[j]? with
  | none =>
    rw [hs, Option.map_none] at hj
    exact .inl ⟨rfl, Option.map_eq_none_iff.mp hj.symm⟩
  | some sl =>
    rw [hs, Option.map_some] at hj
    obtain ⟨sl', hs', hvis⟩ := Option.map_eq_some_iff.mp hj.symm
    exact .inr ⟨sl, sl', rfl, hs', hvis.symm⟩

/-- Writing a faithful slot keeps the slots faithful. -/
theorem State.setSlot_faithful {s : State} (hs : ∀ sl ∈ s.slots, sl.faithful) (k : BitVec 4) {sl' : Slot}
    (hf : sl'.faithful) : ∀ sl ∈ (s.setSlot k sl').slots, sl.faithful := by
  intro sl hsl
  rcases List.mem_or_eq_of_mem_set hsl with hold | rfl
  · exact hs sl hold
  · exact hf

/-- Writing faithful slots that look the same keeps states alike. -/
theorem Alike.setSlot {s s' : State} (h : Alike s s') (k : BitVec 4) {sl sl' : Slot} (hvis : sl.visible = sl'.visible)
    (hf : sl.faithful) (hf' : sl'.faithful) : Alike (s.setSlot k sl) (s'.setSlot k sl') where
  visible_eq := by simp [List.map_set, h.visible_eq, hvis]
  maxPayload_eq := h.maxPayload_eq
  left_faithful := State.setSlot_faithful h.left_faithful k hf
  right_faithful := State.setSlot_faithful h.right_faithful k hf'

/-- Beginning or ending an engine with the free values that the two counters draw keeps states alike, when what is
written looks the same whatever is drawn (log 4, log 5). -/
theorem Alike.setDrawn {s s' : State} (h : Alike s s') (k : BitVec 4) {written : Nat → Slot}
    (hvis : ∀ d d', (written d).visible = (written d').visible) (hunbuilt : ∀ d, (written d).tstate = .unbuilt) :
    Alike { s.setSlot k (written s.draws) with draws := s.draws + 1 }
      { s'.setSlot k (written s'.draws) with draws := s'.draws + 1 } :=
  have hset := h.setSlot k (hvis s.draws s'.draws) (faithful_of_unbuilt (hunbuilt _)) (faithful_of_unbuilt (hunbuilt _))
  { hset with }

/-- Both results are next states, with the same response, and the states are alike again: no requester tells them
apart, now or later. -/
def Indistinguishable (o o' : Result) : Prop :=
  ∃ t t', o = .next t ∧ o' = .next t' ∧ t.response = t'.response ∧ Alike t t'

theorem indistinguishable_respond {s s' : State} (h : Alike s s') (st : Status) (d : Word) (o : List Byte) :
    Indistinguishable (.next (s.respond st d o)) (.next (s'.respond st d o)) :=
  ⟨_, _, rfl, rfl, rfl, { h with }⟩

theorem indistinguishable_onSlot {s s' : State} (h : Alike s s') {k : BitVec 4} {body body' : Slot → Result}
    (hb : ∀ sl sl', s.slots[k.toNat]? = some sl → s'.slots[k.toNat]? = some sl' → sl.visible = sl'.visible →
      Indistinguishable (body sl) (body' sl')) : Indistinguishable (onSlot k s body) (onSlot k s' body') := by
  rcases h.slot_cases k.toNat with ⟨hk, hk'⟩ | ⟨sl, sl', hk, hk', hvis⟩
  · rw [onSlot_none hk, onSlot_none hk']
    exact indistinguishable_respond h _ _ _
  · rw [onSlot_some hk, onSlot_some hk']
    exact hb sl sl' hk hk' hvis

theorem indistinguishable_withinBound {s s' : State} (h : Alike s s') {data : List Byte} {body body' : Result}
    (hb : Indistinguishable body body') :
    Indistinguishable (withinBound data s body) (withinBound data s' body') := by
  cases hl : tooLong s.maxPayload data with
  | true =>
    rw [withinBound_long hl, withinBound_long (h.maxPayload_eq ▸ hl)]
    exact indistinguishable_respond h _ _ _
  | false =>
    rwa [withinBound_short hl, withinBound_short (h.maxPayload_eq ▸ hl)]

theorem indistinguishable_onLive {s s' : State} (h : Alike s s') {sl sl' : Slot} (hvis : sl.visible = sl'.visible)
    {body body' : Result}
    (hb : sl.valid = true → sl'.valid = true → sl.cfg = sl'.cfg → Indistinguishable body body') :
    Indistinguishable (onLive sl s body) (onLive sl' s' body') := by
  have hv' := valid_eq_of_visible_eq hvis
  cases hv : sl.valid with
  | false =>
    rw [onLive_empty hv, onLive_empty (hv' ▸ hv)]
    exact indistinguishable_respond h _ _ _
  | true =>
    rw [hv] at hv'
    rw [onLive_valid hv, onLive_valid hv'.symm]
    exact hb hv hv'.symm (by simpa [visible_of_valid, hv, hv'.symm] using hvis)

/-- Settles O52, by the four forms of a command: the checks see only what is visible, and the lazy build makes slots that
look the same equal. -/
theorem hiddenStateUnobservable : Obligations.HiddenStateUnobservable := by
  intro i s s' h
  change Indistinguishable (exec i s) (exec i s')
  cases exec_form i with
  | begins _ cfg hexec =>
    rw [hexec, hexec]
    exact indistinguishable_onSlot h fun _ _ _ _ _ =>
      indistinguishable_respond (h.setDrawn i.slot (written := Slot.begin cfg) (fun _ _ => rfl) fun _ => rfl) _ _ _
  | usesTable _ body hexec =>
    rw [hexec, hexec]
    refine indistinguishable_onSlot h fun sl sl' hk hk' hvis =>
      indistinguishable_withinBound h (indistinguishable_onLive h hvis fun hv hv' hcfg => ?_)
    have hf := h.left_faithful sl (List.mem_of_getElem? hk)
    have hf' := h.right_faithful sl' (List.mem_of_getElem? hk')
    have heq := ensureTable_eq_of_cfg_eq (hv.trans hv'.symm) hcfg hf hf'
    simp only [usingTable, ← heq]
    exact indistinguishable_respond (h.setSlot i.slot rfl (ensureTable_faithful hf) (ensureTable_faithful hf)) _ _ _
  | serializes _ value hexec =>
    rw [hexec, hexec]
    refine indistinguishable_onSlot h fun sl sl' _ _ hvis => indistinguishable_onLive h hvis fun _ _ hcfg => ?_
    rw [hcfg]
    exact indistinguishable_respond h _ _ _
  | ends _ hexec =>
    rw [hexec, hexec]
    exact indistinguishable_onSlot h fun _ _ _ _ hvis => indistinguishable_onLive h hvis fun _ _ _ =>
      indistinguishable_respond (h.setDrawn i.slot (written := Slot.ended) (fun _ _ => rfl) fun _ => rfl) _ _ _

/-! #### Parameters and the record of answers (R20, R36) -/

/-- Settles O16: neither a command's effect nor routing its response touches a parameter. -/
theorem stepKeepsParameters : Obligations.StepKeepsParameters := by
  intro s t hstep
  rcases step_cases s with ⟨-, hidle⟩ | ⟨turn, k, u, st, d, o, -, hu, hnext⟩
  · cases hidle.symm.trans hstep
    exact ⟨rfl, rfl, rfl⟩
  · cases hnext.symm.trans hstep
    obtain ⟨hlen, hreq, hmax, -, -⟩ := hu.frame
    simp [State.numSlots, State.numRequesters, hlen, hreq, hmax]

/-- A step changes the issue sequences at most by answering one requester's oldest pending request (R231, R232). -/
theorem step_requesters {s t : State} (hstep : step s = .next t) :
    t.requesters = s.requesters ∨ ∃ q r, t.requesters = s.requesters.modify q (answerOldest r) := by
  rcases step_cases s with ⟨-, hidle⟩ | ⟨turn, k, u, st, d, o, -, hu, hnext⟩
  · cases hidle.symm.trans hstep
    exact .inl rfl
  · cases hnext.symm.trans hstep
    obtain ⟨-, hreq, -, -, -⟩ := hu.frame
    refine .inr ⟨turn.requester, { status := st, data := d, out := o }, ?_⟩
    rw [State.route_requesters _ _ _ rfl, State.respond_requesters, hreq, State.takeTurn_requesters]

/-- Settles O12: answering a pending request leaves every answered entry at its place. -/
theorem answeredRequestsNeverChange : Obligations.AnsweredRequestsNeverChange := by
  intro s t hstep q seq j e hseq he hanswered
  rcases step_requesters hstep with hsame | ⟨q', r, hmod⟩
  · exact ⟨seq, hsame ▸ hseq, he⟩
  · obtain ⟨r', hr'⟩ := Option.ne_none_iff_exists'.mp hanswered
    rw [hmod, List.getElem?_modify, hseq]
    by_cases hq : q' = q
    · exact ⟨answerOldest r seq, by simp [hq], answerOldest_keeps he hr'⟩
    · exact ⟨seq, by simp [hq], he⟩

/-! #### The invariant at reset and after the outside world's inputs (R36, R260) -/

/-- The invariant holds after reset with any parameters in their bounds (R7, R8). -/
theorem Inv.resetOf {c : Config} (hc : c.wf) : Inv (State.resetOf c) := by
  obtain ⟨hslots, hslots16, hreq⟩ := hc
  constructor
  case slots_bounds => simpa [State.resetOf, State.numSlots] using ⟨hslots, hslots16⟩
  case requesters_pos => simpa [State.resetOf, State.numRequesters] using hreq
  case faithful =>
    intro sl hsl
    rw [List.eq_of_mem_replicate hsl]
    exact faithful_of_unbuilt rfl
  case empty_unbuilt =>
    intro sl hsl _
    rw [List.eq_of_mem_replicate hsl]
    rfl
  case in_order =>
    intro seq hseq
    rw [List.eq_of_mem_replicate hseq]
    rfl
  case shaped =>
    intro seq hseq e he
    rw [List.eq_of_mem_replicate hseq] at he
    cases he
  case nothing_in_flight => rfl

/-- After the reset event every slot is one in which an engine ended (R260). -/
theorem State.mem_resetEvent_slots {s : State} {sl : Slot} (h : sl ∈ s.resetEvent.slots) : ∃ d, sl = Slot.ended d := by
  obtain ⟨j, _, rfl⟩ := List.mem_mapIdx.mp h
  exact ⟨_, rfl⟩

/-- After the reset event every issue sequence is empty (R260). -/
theorem State.mem_resetEvent_requesters {s : State} {seq : List Issued} (h : seq ∈ s.resetEvent.requesters) :
    seq = [] := by
  obtain ⟨_, _, rfl⟩ := List.mem_map.mp h
  rfl

/-- The reset event keeps the invariant. -/
theorem Inv.resetEvent {s : State} (h : Inv s) : Inv s.resetEvent := by
  constructor
  case slots_bounds => simpa [State.resetEvent, State.numSlots] using h.slots_bounds
  case requesters_pos => simpa [State.resetEvent, State.numRequesters] using h.requesters_pos
  case faithful =>
    intro sl hsl
    obtain ⟨d, rfl⟩ := State.mem_resetEvent_slots hsl
    exact faithful_of_unbuilt rfl
  case empty_unbuilt =>
    intro sl hsl _
    obtain ⟨d, rfl⟩ := State.mem_resetEvent_slots hsl
    rfl
  case in_order =>
    intro seq hseq
    rw [State.mem_resetEvent_requesters hseq]
    rfl
  case shaped =>
    intro seq hseq e he
    rw [State.mem_resetEvent_requesters hseq] at he
    cases he
  case nothing_in_flight => rfl

/-- A request issued behind a sequence in issue order leaves it in order. -/
theorem inOrder_append_pending {seq : List Issued} (h : inOrder seq = true) (r : Request) :
    inOrder (seq ++ [{ request := r, response := none }]) = true := by
  induction seq with
  | nil => rfl
  | cons e rest ih =>
    rw [List.cons_append]
    cases he : e.response with
    | none =>
      rw [inOrder_cons_pending (by simp [he])] at h ⊢
      simpa using h
    | some r' =>
      rw [inOrder_cons_answered (by simp [he])] at h ⊢
      exact ih h

/-- After an issue a sequence is one of before, or one of before with the request issued behind it (R36). -/
theorem State.mem_issue_requesters {s : State} {q : Nat} {r : Request} {seq : List Issued}
    (h : seq ∈ (s.issue q r).requesters) :
    seq ∈ s.requesters ∨ ∃ old ∈ s.requesters, seq = old ++ [{ request := r, response := none }] := by
  obtain ⟨j, hj, rfl⟩ := List.mem_iff_getElem.mp h
  simp only [State.issue, List.getElem_modify]
  split
  · exact .inr ⟨_, List.getElem_mem _, rfl⟩
  · exact .inl (List.getElem_mem _)

/-- An issued request keeps the invariant. -/
theorem Inv.issue {s : State} (h : Inv s) (q : Nat) (r : Request) : Inv (s.issue q r) := by
  constructor
  case slots_bounds => exact h.slots_bounds
  case requesters_pos => simpa [State.issue, State.numRequesters] using h.requesters_pos
  case faithful => exact h.faithful
  case empty_unbuilt => exact h.empty_unbuilt
  case in_order =>
    intro seq hseq
    rcases State.mem_issue_requesters hseq with hold | ⟨old, hold, rfl⟩
    · exact h.in_order seq hold
    · exact inOrder_append_pending (h.in_order old hold) r
  case shaped =>
    intro seq hseq e he resp hresp
    rcases State.mem_issue_requesters hseq with hold | ⟨old, hold, rfl⟩
    · exact h.shaped seq hold e he resp hresp
    · rcases List.mem_append.mp he with hbefore | hnew
      · exact h.shaped old hold e hbefore resp hresp
      · rw [List.mem_singleton.mp hnew] at hresp
        cases hresp
  case nothing_in_flight => exact h.nothing_in_flight

/-- Settles O14: at reset for all parameters, then one lemma for each input of the outside world. -/
theorem resetMeetsInvariant : Obligations.ResetMeetsInvariant :=
  ⟨Inv.resetOf (by decide), fun _ hc => Inv.resetOf hc, fun _ hs => hs.resetEvent, fun _ q r hs => hs.issue q r⟩

end Sys2Proof.Machine

/-! ### Proofs about steps and requests: which request a step performs, the feed as a division, requests that repeat or
change places -/

namespace Sys2Proof.Machine

/-! #### The request a step performs (R56, R60, R225, R231) -/

/-- Settles O6: a step performs the chosen request after the turn is taken, which changes no slot and so not what
decodes. -/
theorem stepRunsDecodedInstruction : Obligations.StepRunsDecodedInstruction := by
  intro s turn h
  constructor
  · intro i hi
    rw [step_chosen h, perform_of_decode (s := s.takeTurn turn) hi]
  · intro e he
    rw [step_chosen h, perform_of_error (s := s.takeTurn turn) he]

/-- No requester is ready exactly when none has a pending request. -/
theorem State.ready_eq_nil_iff (s : State) : s.ready = [] ↔ ∀ q, s.pendingOf q = none := by
  simp only [List.eq_nil_iff_forall_not_mem, Prod.forall, State.mem_ready, Option.eq_none_iff_forall_ne_some, ne_eq]

/-- With a requester ready, something is chosen (R231). -/
theorem State.choose_ne_none {s : State} (h : s.ready ≠ []) : s.choose ≠ none := by
  unfold State.choose
  split
  · simp
  · split
    · contradiction
    · simp
    · simp

/-- Nothing is chosen exactly when no requester has a pending request (R231). -/
theorem State.choose_eq_none_iff (s : State) : s.choose = none ↔ ∀ q, s.pendingOf q = none := by
  constructor
  · intro h
    by_contra hpending
    exact State.choose_ne_none (mt s.ready_eq_nil_iff.mp hpending) h
  · intro h
    rw [Option.eq_none_iff_forall_ne_some]
    intro t ht
    simpa [h] using State.choose_some ht

/-- An arbitration order that begins with a pending requester serves it (log 7). -/
theorem State.choose_of_named_first {s : State} {q : Nat} {r : Request} {rest : List Nat}
    (harb : s.arbitration = q :: rest) (h : s.pendingOf q = some r) :
    s.choose = some { requester := q, request := r, arbitration := rest, draws := s.draws } := by
  simp [State.choose, harb, State.namedTurn, h]

/-- Settles O8: one lemma for each part. -/
theorem choiceServesAnyPendingRequester : Obligations.ChoiceServesAnyPendingRequester :=
  ⟨State.choose_eq_none_iff, fun _ _ => State.choose_some, fun _ _ _ _ h => State.choose_of_named_first rfl h⟩

/-! #### The feed is a bit-serial division (R53, R132 to R135, R160) -/

/-- The high byte is the low byte of the reversed word, reversed (R130, R131). -/
theorem rev8_lowByte_rev16 (v : Word) : rev8 (lowByte (rev16 v)) = highByte v := by
  apply BitVec.eq_of_getLsbD_eq
  intro i hi
  have hlow : 7 - i < 8 := by omega
  have hindex : 15 - (7 - i) = 8 + i := by omega
  simp only [getLsbD_rev8 _ i hi, lowByte, highByte, BitVec.getLsbD_extractLsb', Nat.zero_add,
    getLsbD_rev16 v (7 - i) (by omega), hlow, hi, hindex]

/-- Reversal turns a shift to the left into a shift to the right (R131). -/
theorem rev16_shiftLeft (v : Word) (n : Nat) : rev16 (v <<< n) = rev16 v >>> n := by
  apply BitVec.eq_of_getLsbD_eq
  intro i hi
  rw [getLsbD_rev16 _ i hi, BitVec.getLsbD_shiftLeft, BitVec.getLsbD_ushiftRight]
  by_cases hn : n + i < 16
  · have hge : ¬ 15 - i < n := by omega
    have hlt : 15 - i < 16 := by omega
    have hindex : 15 - i - n = 15 - (n + i) := by omega
    rw [getLsbD_rev16 v _ hn]
    simp [hge, hlt, hindex]
  · have hlt : 15 - i < n := by omega
    simp [hlt, BitVec.getLsbD_of_ge (rev16 v) (n + i) (by omega)]

/-- A word is its high byte, where a seed puts it (R133), and its low byte. -/
theorem seed_highByte_xor_lowByte (v : Word) : seed (highByte v) ^^^ (lowByte v).zeroExtend 16 = v := by
  apply BitVec.eq_of_getLsbD_eq
  intro i hi
  by_cases h : i < 8
  · simp [seed, highByte, lowByte, h, hi]
  · have hindex : 8 + (i - 8) = i := by omega
    have hlt : i - 8 < 8 := by omega
    simp [seed, highByte, lowByte, h, hi, hindex, hlt]

/-- A shift by eight places drops the high byte. -/
theorem lowByte_shiftLeft (v : Word) : (lowByte v).zeroExtend 16 <<< 8 = v <<< 8 := by
  apply BitVec.eq_of_getLsbD_eq
  intro i hi
  by_cases h : i < 8
  · simp [h]
  · have hlt : i - 8 < 8 := by omega
    have hlt' : i - 8 < 16 := by omega
    simp [lowByte, h, hi, hlt, hlt']

/-- Bit-serial division takes in one byte: it enters the high half of the register, which then shifts eight times
(R132, R160). -/
def serialByte (poly v : Word) (b : Byte) : Word := step8 (v ^^^ seed b) poly

/-- The eight shifts of a byte, looked up: the high half of the register and the byte make the table index, and the low
half moves up unchanged (R132, R133). -/
theorem serialByte_eq_lookup (poly v : Word) (b : Byte) :
    serialByte poly v b = normalEntry poly (highByte v ^^^ b) ^^^ (v <<< 8) := by
  have hsplit : v ^^^ seed b = seed (highByte v ^^^ b) ^^^ (lowByte v).zeroExtend 16 := by
    calc v ^^^ seed b = (seed (highByte v) ^^^ (lowByte v).zeroExtend 16) ^^^ seed b := by
          rw [seed_highByte_xor_lowByte]
      _ = seed (highByte v ^^^ b) ^^^ (lowByte v).zeroExtend 16 := by rw [seed_xor]; ac_rfl
  have hlow : shiftSteps poly 8 ((lowByte v).zeroExtend 16) = v <<< 8 := by
    simpa [lowByte_shiftLeft] using shiftSteps_low poly (lowByte v) 8 0 (by omega)
  rw [serialByte, hsplit, step8, shiftSteps_xor, hlow, normalEntry, step8]

/-- On a normal table the feed loop takes in a byte as the division does (R133, R160). -/
theorem feedNormal_eq_serialByte {sl : Slot} {poly : Word} (h : sl.table = build poly false) (v : Word) (b : Byte) :
    feedNormal sl v b = serialByte poly v b := by
  rw [feedNormal, tRead_of_table sl poly false h, serialByte_eq_lookup]
  rfl

/-- On a reflected table the feed loop works on the reversed register, and takes in a byte as the division takes in the
reversed byte (R135, R160). -/
theorem feedReflected_eq_serialByte {sl : Slot} {poly : Word} (h : sl.table = build poly true) (v : Word) (b : Byte) :
    feedReflected sl (rev16 v) b = rev16 (serialByte poly v (rev8 b)) := by
  have hentry : tableEntry poly true (lowByte (rev16 v) ^^^ b) = rev16 (normalEntry poly (highByte v ^^^ rev8 b)) := by
    rw [← rev8_lowByte_rev16, ← rev8_xor]
    rfl
  rw [feedReflected, tRead_of_table sl poly true h, hentry, serialByte_eq_lookup, rev16_xor, rev16_shiftLeft]

/-- The feed loop on the configuration's table is the division, byte by byte, each byte reversed first when REFIN is 1
(R53, R160). -/
theorem feed_eq_foldl_serialByte {sl : Slot} (h : sl.table = build sl.cfg.poly sl.cfg.refin) (r : Word)
    (data : List Byte) :
    feed sl r data =
      data.foldl (fun v b => serialByte sl.cfg.poly v (if sl.cfg.refin = true then rev8 b else b)) r := by
  cases hr : sl.cfg.refin with
  | false =>
    rw [hr] at h
    simp [feed, hr, funext₂ (feedNormal_eq_serialByte h)]
  | true =>
    rw [hr] at h
    simp [feed, hr, List.foldl_hom rev16 (feedReflected_eq_serialByte h)]

/-- `n` shifts of R132 are one shift, iterated. -/
theorem shiftSteps_eq_iterate (poly : Word) (n : Nat) : shiftSteps poly n = (shiftStep poly)^[n] := by
  induction n with
  | zero => rfl
  | succ n ih => funext v; rw [shiftSteps, ih, Function.iterate_succ_apply]

/-- Settles O48: the feed is a fold of byte divisions, each of eight iterated shifts. -/
theorem tableFeedIsBitSerial : Obligations.TableFeedIsBitSerial := by
  intro sl h r data
  simp only [feed_eq_foldl_serialByte h, serialByte, step8, shiftSteps_eq_iterate]
  rfl

/-! #### Repeating commands, and requests in either order (R59, R61) -/

@[simp] theorem State.setSlot_setSlot (s : State) (k : BitVec 4) (a b : Slot) :
    (s.setSlot k a).setSlot k b = s.setSlot k b := by
  simp [State.setSlot]

/-- What a slot holds after it is written. -/
theorem State.getElem?_setSlot {s : State} {k : BitVec 4} {sl : Slot} (h : s.slots[k.toNat]? = some sl) (sl' : Slot) :
    (s.setSlot k sl').slots[k.toNat]? = some sl' := by
  have hlt := (List.getElem?_eq_some_iff.mp h).1
  simp [hlt]

/-- Building twice is building once (R137). -/
@[simp] theorem ensureTable_ensureTable (sl : Slot) : ensureTable (ensureTable sl) = ensureTable sl :=
  ensureTable_of_built _ (ensureTable_tstate sl)

/-- No command reads the response that is on its way (R32, log 6). -/
@[simp] theorem exec_respond (i : Instr) (s : State) (st : Status) (d : Word) (o : List Byte) :
    exec i (s.respond st d o) = exec i s := by
  cases i <;> rfl

/-- What one command answers in `s` and in `s'`, when it cannot tell them apart: the same state, or the same response
with no other change. -/
def SameAnswer (s s' : State) (o o' : Result) : Prop :=
  o' = o ∨ ∃ st d out, o = .next (s.respond st d out) ∧ o' = .next (s'.respond st d out)

/-- The same error is the same answer. -/
theorem sameAnswer_raise (st : Status) (s s' : State) : SameAnswer s s' (raise st s) (raise st s') :=
  .inr ⟨st, 0, [], rfl, rfl⟩

theorem sameAnswer_withinBound {s s' : State} (hmax : s'.maxPayload = s.maxPayload) {data : List Byte}
    {body body' : Result} (hb : SameAnswer s s' body body') :
    SameAnswer s s' (withinBound data s body) (withinBound data s' body') := by
  cases hl : tooLong s.maxPayload data with
  | true => rw [withinBound_long hl, withinBound_long (hmax ▸ hl)]; exact sameAnswer_raise _ _ _
  | false => rwa [withinBound_short hl, withinBound_short (hmax ▸ hl)]

theorem sameAnswer_onLive {s s' : State} {sl sl' : Slot} (hv : sl'.valid = sl.valid) {body body' : Result}
    (hb : SameAnswer s s' body body') : SameAnswer s s' (onLive sl s body) (onLive sl' s' body') := by
  cases h : sl.valid with
  | false => rw [onLive_empty h, onLive_empty (hv.trans h)]; exact sameAnswer_raise _ _ _
  | true => rwa [onLive_valid h, onLive_valid (hv.trans h)]

/-- No command on a slot tells whether its table has been built before (R34, R138). -/
theorem exec_after_build (i : Instr) {s : State} {sl : Slot} (h : s.slots[i.slot.toNat]? = some sl) :
    SameAnswer s (s.setSlot i.slot (ensureTable sl)) (exec i s) (exec i (s.setSlot i.slot (ensureTable sl))) := by
  have h' := State.getElem?_setSlot h (ensureTable sl)
  cases exec_form i with
  | begins _ cfg hexec =>
    rw [hexec, hexec, beginEngine, beginEngine, onSlot_some h, onSlot_some h']
    exact .inl (by simp)
  | usesTable _ body hexec =>
    rw [hexec, hexec, onSlot_some h, onSlot_some h']
    refine sameAnswer_withinBound (State.setSlot_maxPayload s _ _)
      (sameAnswer_onLive (ensureTable_valid sl) (.inl ?_))
    simp [usingTable]
  | serializes _ value hexec =>
    rw [hexec, hexec, execToBytes, execToBytes, onSlot_some h, onSlot_some h', ensureTable_cfg]
    exact sameAnswer_onLive (ensureTable_valid sl) (.inr ⟨_, _, _, rfl, rfl⟩)
  | ends _ hexec =>
    rw [hexec, hexec, execRelease, execRelease, onSlot_some h, onSlot_some h']
    exact sameAnswer_onLive (ensureTable_valid sl) (.inl (by simp))

/-- A command that neither begins nor ends an engine, performed again, ends in the same state with the same response
(R59). -/
theorem exec_again {i : Instr} {s t : State} (hi : i.reconfigures = false) (h : exec i s = .next t) :
    exec i t = .next t := by
  obtain ⟨u, st, d, o, rfl, rfl | ⟨sl, hk, -, rfl⟩⟩ := exec_keeps_or_builds hi h
  · rw [exec_respond, h]
  · rcases exec_after_build i hk with hsame | ⟨st', d', o', hkeep, -⟩
    · rw [exec_respond, hsame, h]
    · have hst : s.respond st' d' o' = (s.setSlot i.slot (ensureTable sl)).respond st d o := by
        simpa using hkeep.symm.trans h
      rw [← hst, exec_respond, hkeep]

/-- A command that begins an engine does nothing else (R101, R104). -/
theorem exec_of_creates {i : Instr} (h : i.creates = true) : ∃ cfg, ∀ s, exec i s = beginEngine i.slot cfg s := by
  cases i with
  | construct k poly bord refout refin init xorout => exact ⟨_, fun _ => rfl⟩
  | preset k id => exact ⟨_, fun _ => rfl⟩
  | _ => simp [Instr.creates] at h

/-- Beginning an engine in a slot of the block (R101, R104). -/
theorem beginEngine_some {k : BitVec 4} {s : State} {sl : Slot} (h : s.slots[k.toNat]? = some sl)
    (cfg : Configuration) :
    beginEngine k cfg s =
      .next (State.respond { s.setSlot k (Slot.begin cfg s.draws) with draws := s.draws + 1 } .ok 0 []) :=
  onSlot_some h _

/-- RELEASE of a live slot (R105). -/
theorem exec_release_valid {k : BitVec 4} {s : State} {sl : Slot} (h : s.slots[k.toNat]? = some sl)
    (hv : sl.valid = true) :
    exec (.release k) s =
      .next (State.respond { s.setSlot k (Slot.ended s.draws) with draws := s.draws + 1 } .ok 0 []) := by
  rw [exec, execRelease, onSlot_some h, onLive_valid hv]

/-- RELEASE of an empty slot (R105, R223). -/
theorem exec_release_empty {k : BitVec 4} {s : State} {sl : Slot} (h : s.slots[k.toNat]? = some sl)
    (hv : sl.valid = false) : exec (.release k) s = raise .errNoInstance s := by
  rw [exec, execRelease, onSlot_some h, onLive_empty hv]

/-- Settles O55: a second CONSTRUCT or PRESET writes the same slot up to the free table, a second RELEASE meets an empty
slot, and the other commands end where they began. -/
theorem repeatedCommands : Obligations.RepeatedCommands := by
  refine ⟨fun i s hi hwf => ?_, fun s k sl hk hv => ?_, fun i s hi => ?_⟩
  · obtain ⟨cfg, hexec⟩ := exec_of_creates hi
    have hlt : i.slot.toNat < s.slots.length := of_decide_eq_true hwf
    have hk := List.getElem?_eq_getElem hlt
    have hbegun := State.getElem?_setSlot hk (Slot.begin cfg s.draws)
    refine ⟨_, _, (hexec s).trans (beginEngine_some hk cfg),
      (hexec _).trans (beginEngine_some (sl := Slot.begin cfg s.draws) ?_ cfg), rfl, ?_⟩
    · exact hbegun
    · simp [List.map_set]
  · have hended := State.getElem?_setSlot hk (Slot.ended s.draws)
    exact ⟨_, _, exec_release_valid hk hv, exec_release_empty hended (Slot.ended_valid _), rfl⟩
  · obtain ⟨u, st, d, o, -, h⟩ := exec_effect i s
    exact ⟨_, _, h, exec_again hi h, rfl⟩

/-- A decoded CONSTRUCT has the slot of its request (R72, R78). -/
theorem decodeConstruct_fields {r : Request} {i : Instr} (h : decodeConstruct r = .ok i) :
    i.slot = slotOf r.cmd ∧ i.opcode = 0x1#4 := by
  unfold decodeConstruct at h
  split at h
  · cases h
  · split at h <;> cases h
    exact ⟨rfl, rfl⟩

/-- A decoded command has the slot and the opcode of its request (R71, R72, R83). -/
theorem decode_fields {n : Nat} {r : Request} {i : Instr} (h : decode n r = .ok i) :
    i.slot = slotOf r.cmd ∧ i.opcode = opcOf r.cmd := by
  have named : ∀ j : Instr, j.slot = slotOf r.cmd → j.opcode.toNat = (opcOf r.cmd).toNat → j = i →
      i.slot = slotOf r.cmd ∧ i.opcode = opcOf r.cmd := by
    rintro j hslot hopc rfl
    exact ⟨hslot, BitVec.eq_of_toNat_eq hopc⟩
  have bare : ∀ (zero : Bool) (j : Instr), decodeBare zero r.payload j = .ok i → j.slot = slotOf r.cmd →
      j.opcode.toNat = (opcOf r.cmd).toNat → i.slot = slotOf r.cmd ∧ i.opcode = opcOf r.cmd :=
    fun zero j hj hslot hopc => named j hslot hopc ((decodeBare_ok_iff _ _ _ _).mp hj).2.2
  have data : ∀ (p : Prop) [Decidable p] (j : Instr),
      (if p then .ok j else .error .reservedField : Except DecodeError Instr) = .ok i → j.slot = slotOf r.cmd →
      j.opcode.toNat = (opcOf r.cmd).toNat → i.slot = slotOf r.cmd ∧ i.opcode = opcOf r.cmd := by
    intro p _ j hj hslot hopc
    split at hj
    · cases hj
      exact named _ hslot hopc rfl
    · cases hj
  unfold decode at h
  split at h
  · cases h
  · split at h
    case h_1 hm =>
      obtain ⟨hslot, hopc⟩ := decodeConstruct_fields h
      exact ⟨hslot, hopc.trans (BitVec.eq_of_toNat_eq hm.symm)⟩
    case h_2 hm => exact bare _ _ h rfl hm.symm
    case h_3 hm => exact data _ _ h rfl hm.symm
    case h_4 hm => exact data _ _ h rfl hm.symm
    case h_5 hm => exact bare _ _ h rfl hm.symm
    case h_6 hm => exact bare _ _ h rfl hm.symm
    case h_7 hm => exact bare _ _ h rfl hm.symm
    case h_8 hm => exact bare _ _ h rfl hm.symm
    case h_9 => cases h

/-- A command that is neither CONSTRUCT, PRESET nor RELEASE by its opcode reconfigures nothing (R61, R76). -/
theorem reconfigures_eq_false {i : Instr} (h : ∀ c ∈ [0x1#4, 0x2#4, 0x8#4], i.opcode ≠ c) :
    i.reconfigures = false := by
  cases i with
  | construct k poly bord refout refin init xorout => exact absurd rfl (h 0x1#4 (by simp))
  | preset k id => exact absurd rfl (h 0x2#4 (by simp))
  | release k => exact absurd rfl (h 0x8#4 (by simp))
  | _ => rfl

/-- No request is performed by the response that is on its way (R32, log 6). -/
@[simp] theorem perform_respond (r : Request) (s : State) (st : Status) (d : Word) (o : List Byte) :
    perform r (s.respond st d o) = perform r s := by
  cases h : decode s.numSlots r with
  | error e => rw [perform_of_error h, perform_of_error (s := s.respond st d o) h]; rfl
  | ok i => rw [perform_of_decode h, perform_of_decode (s := s.respond st d o) h, exec_respond]

/-- A request that reconfigures nothing responds from the state itself or from the lazy build of its slot (R137). -/
theorem perform_keeps_or_builds {r : Request} {s t : State}
    (hr : ∀ c ∈ [0x1#4, 0x2#4, 0x8#4], opcOf r.cmd ≠ c) (h : perform r s = .next t) :
    ∃ u st d o, t = State.respond u st d o ∧
      (u = s ∨ ∃ sl, s.slots[(slotOf r.cmd).toNat]? = some sl ∧ u = s.setSlot (slotOf r.cmd) (ensureTable sl)) := by
  cases hd : decode s.numSlots r with
  | error e =>
    rw [perform_of_error hd] at h
    cases h
    exact ⟨s, _, _, _, rfl, .inl rfl⟩
  | ok i =>
    rw [perform_of_decode hd] at h
    obtain ⟨hslot, hopc⟩ := decode_fields hd
    obtain ⟨u, st, d, o, ht, hu⟩ := exec_keeps_or_builds (reconfigures_eq_false (hopc ▸ hr)) h
    rw [hslot] at hu
    exact ⟨u, st, d, o, ht, hu.imp_right fun ⟨sl, hk, _, hbuilt⟩ => ⟨sl, hk, hbuilt⟩⟩

/-- No request on a slot tells whether its table has been built before (R34, R138). -/
theorem perform_after_build (r : Request) {s : State} {sl : Slot} (h : s.slots[(slotOf r.cmd).toNat]? = some sl) :
    SameAnswer s (s.setSlot (slotOf r.cmd) (ensureTable sl)) (perform r s)
      (perform r (s.setSlot (slotOf r.cmd) (ensureTable sl))) := by
  have hn : (s.setSlot (slotOf r.cmd) (ensureTable sl)).numSlots = s.numSlots := by simp [State.numSlots]
  cases hd : decode s.numSlots r with
  | error e =>
    rw [perform_of_error hd, perform_of_error (hn ▸ hd)]
    exact sameAnswer_raise _ _ _
  | ok i =>
    rw [perform_of_decode hd, perform_of_decode (hn ▸ hd)]
    obtain ⟨hslot, -⟩ := decode_fields hd
    rw [← hslot] at h ⊢
    exact exec_after_build i h

/-- The same answer is, above all, the same response. -/
theorem SameAnswer.response_eq {s s' t t' : State} {o o' : Result} (h : SameAnswer s s' o o') (ht : o = .next t)
    (ht' : o' = .next t') : t'.response = t.response := by
  rcases h with rfl | ⟨st, d, out, rfl, rfl⟩
  · cases ht.symm.trans ht'
    rfl
  · cases ht
    cases ht'
    rfl

/-- Every request answers a next state (R237). -/
theorem perform_next (r : Request) (s : State) : ∃ t, perform r s = .next t := by
  obtain ⟨_, _, _, _, _, -, h⟩ := perform_effect r s
  exact ⟨_, h⟩

/-- After a request on the same slot that reconfigures nothing, any request is given the response it would be given
before (R61). -/
theorem perform_response_after {r r' : Request} {s t u u' : State} (hslot : slotOf r.cmd = slotOf r'.cmd)
    (hr : ∀ c ∈ [0x1#4, 0x2#4, 0x8#4], opcOf r.cmd ≠ c) (h : perform r s = .next t) (hu : perform r' s = .next u)
    (hu' : perform r' t = .next u') : u'.response = u.response := by
  obtain ⟨v, st, d, o, rfl, rfl | ⟨sl, hk, rfl⟩⟩ := perform_keeps_or_builds hr h
  · rw [perform_respond] at hu'
    cases hu.symm.trans hu'
    rfl
  · rw [hslot] at hk hu'
    rw [perform_respond] at hu'
    exact (perform_after_build r' hk).response_eq hu hu'

/-- Settles O53: each request is given the same response first and second. -/
theorem tableUsersCommute : Obligations.TableUsersCommute := by
  intro s r₁ r₂ hslot hopc
  obtain ⟨t₁, ht₁⟩ := perform_next r₁ s
  obtain ⟨t₂, ht₂⟩ := perform_next r₂ t₁
  obtain ⟨u₂, hu₂⟩ := perform_next r₂ s
  obtain ⟨u₁, hu₁⟩ := perform_next r₁ u₂
  refine ⟨t₁, t₂, u₁, u₂, ht₁, ht₂, hu₂, hu₁, ?_, ?_⟩
  · exact (perform_response_after hslot.symm (fun c hc => (hopc c hc).2) hu₂ ht₁ hu₁).symm
  · exact perform_response_after hslot (fun c hc => (hopc c hc).1) ht₁ hu₂ ht₂

end Sys2Proof.Machine

/-! ### Proofs about the encoding: the round trips, the decode check, responses and their packed word, the assembler -/

namespace Sys2Proof

open Machine

/-! #### The fields of ARG8 (R73, R75) -/

/-- A subfield of ARG8, read from the command word or from ARG8. -/
theorem extractLsb'_arg8Of (cmd : CmdWord) (lo n : Nat) (h : lo + n ≤ 8) :
    (arg8Of cmd).extractLsb' lo n = cmd.extractLsb' (8 + lo) n := by
  apply BitVec.eq_of_getLsbD_eq
  intro j hj
  have hlo : lo + j < 8 := by omega
  simp [arg8Of, hj, hlo, Nat.add_assoc]

/-- A bit of ARG8, read from the command word or from ARG8. -/
theorem getLsbD_arg8Of (cmd : CmdWord) {j : Nat} (hj : j < 8) : (arg8Of cmd).getLsbD j = cmd.getLsbD (8 + j) := by
  simp [arg8Of, hj]

/-- A single bit is a field of width 1. -/
theorem ofBool_getLsbD {w : Nat} (x : BitVec w) (i : Nat) : BitVec.ofBool (x.getLsbD i) = x.extractLsb' i 1 := by
  apply BitVec.eq_of_getLsbD_eq
  intro j hj
  obtain rfl : j = 0 := by omega
  simp

/-- Two adjacent fields are one field. -/
theorem extractLsb'_append_adjacent {w : Nat} (x : BitVec w) (lo m n : Nat) :
    x.extractLsb' (lo + m) n ++ x.extractLsb' lo m = x.extractLsb' lo (n + m) :=
  BitVec.extractLsb'_append_extractLsb'_eq_extractLsb' rfl

/-- ARG8 is the four fields CONSTRUCT reads from it (R75). -/
theorem arg8_eq_construct_fields (a : Byte) :
    a.extractLsb' 4 4 ++ a.extractLsb' 2 2 ++ BitVec.ofBool (a.getLsbD 1) ++ BitVec.ofBool (a.getLsbD 0) = a := by
  rw [ofBool_getLsbD, ofBool_getLsbD, extractLsb'_append_adjacent a 2 2 4, extractLsb'_append_adjacent a 1 1 6,
    extractLsb'_append_adjacent a 0 1 7]
  exact BitVec.extractLsb'_eq_self

/-- ARG8 is the two fields PRESET reads from it (R75). -/
theorem arg8_eq_preset_fields (a : Byte) : a.extractLsb' 2 6 ++ a.extractLsb' 0 2 = a := by
  rw [extractLsb'_append_adjacent a 0 2 6]
  exact BitVec.extractLsb'_eq_self

/-! #### One line of the decoder per opcode (R76, R82) -/

/-- CONSTRUCT's operands decode to a command exactly when CMD[15:12] is 0, the BORD code names a byte order and the
payload has four bytes (R78, R82). -/
theorem decodeConstruct_ok_iff (r : Request) (i : Instr) :
    decodeConstruct r = .ok i ↔
      (arg8Of r.cmd).extractLsb' 4 4 = 0#4 ∧
      ∃ b p0 p1 p2 p3, bordOf ((arg8Of r.cmd).extractLsb' 2 2) = some b ∧ r.payload = [p0, p1, p2, p3] ∧
        .construct (slotOf r.cmd) (imm16Of r.cmd) b ((arg8Of r.cmd).getLsbD 1) ((arg8Of r.cmd).getLsbD 0)
          (word16 p0 p1) (word16 p2 p3) = i := by
  rw [extractLsb'_arg8Of _ 4 4 (by decide), extractLsb'_arg8Of _ 2 2 (by decide), getLsbD_arg8Of _ (by decide),
    getLsbD_arg8Of _ (by decide)]
  constructor
  · intro h
    unfold decodeConstruct at h
    split at h
    · cases h
    · rename_i hzero
      split at h
      · cases h
      · rename_i b p0 p1 p2 p3 hb hp
        exact ⟨not_not.mp hzero, b, p0, p1, p2, p3, hb, hp, Except.ok.inj h⟩
      · cases h
  · rintro ⟨hzero, b, p0, p1, p2, p3, hb, hp, rfl⟩
    simp [decodeConstruct, hzero, hb, hp]

/-- A decoder line with one condition and one command (R82). -/
theorem ite_ok_eq_ok_iff {p : Prop} [Decidable p] {e : DecodeError} {i j : Instr} :
    (if p then Except.ok j else .error e) = .ok i ↔ p ∧ j = i := by
  split_ifs with hp <;> simp [hp]

section DecodeLines

variable {n : Nat} {r : Request} {i : Instr} (hslot : (slotOf r.cmd).toNat < n)
include hslot

theorem decode_construct (h : opcOf r.cmd = 0x1#4) : decode n r = decodeConstruct r := by
  simp [decode, hslot.not_ge, h]

theorem decode_preset_ok_iff (h : opcOf r.cmd = 0x2#4) :
    decode n r = .ok i ↔ (arg8Of r.cmd).extractLsb' 2 6 = 0#6 ∧ imm16Of r.cmd = 0#16 ∧ r.payload = [] ∧
      .preset (slotOf r.cmd) (presetOf ((arg8Of r.cmd).extractLsb' 0 2)) = i := by
  simp [decode, hslot.not_ge, h, decodeBare_ok_iff, and_assoc, extractLsb'_arg8Of]

theorem decode_checksum_ok_iff (h : opcOf r.cmd = 0x3#4) :
    decode n r = .ok i ↔ arg8Of r.cmd = 0#8 ∧ imm16Of r.cmd = 0#16 ∧ .checksum (slotOf r.cmd) r.payload = i := by
  simp [decode, hslot.not_ge, h, ite_ok_eq_ok_iff, and_assoc]

theorem decode_update_ok_iff (h : opcOf r.cmd = 0x4#4) :
    decode n r = .ok i ↔ arg8Of r.cmd = 0#8 ∧ .update (slotOf r.cmd) (imm16Of r.cmd) r.payload = i := by
  simp [decode, hslot.not_ge, h, ite_ok_eq_ok_iff]

theorem decode_toBytes_ok_iff (h : opcOf r.cmd = 0x5#4) :
    decode n r = .ok i ↔ arg8Of r.cmd = 0#8 ∧ r.payload = [] ∧ .toBytes (slotOf r.cmd) (imm16Of r.cmd) = i := by
  simp [decode, hslot.not_ge, h, decodeBare_ok_iff]

theorem decode_buildTable_ok_iff (h : opcOf r.cmd = 0x6#4) :
    decode n r = .ok i ↔ arg8Of r.cmd = 0#8 ∧ imm16Of r.cmd = 0#16 ∧ r.payload = [] ∧
      .buildTable (slotOf r.cmd) = i := by
  simp [decode, hslot.not_ge, h, decodeBare_ok_iff, and_assoc]

theorem decode_readTable_ok_iff (h : opcOf r.cmd = 0x7#4) :
    decode n r = .ok i ↔ imm16Of r.cmd = 0#16 ∧ r.payload = [] ∧ .readTable (slotOf r.cmd) (arg8Of r.cmd) = i := by
  simp [decode, hslot.not_ge, h, decodeBare_ok_iff]

theorem decode_release_ok_iff (h : opcOf r.cmd = 0x8#4) :
    decode n r = .ok i ↔ arg8Of r.cmd = 0#8 ∧ imm16Of r.cmd = 0#16 ∧ r.payload = [] ∧ .release (slotOf r.cmd) = i := by
  simp [decode, hslot.not_ge, h, decodeBare_ok_iff, and_assoc]

end DecodeLines

/-- A request that decodes names one of the slots (R72). -/
theorem slot_lt_of_decode {n : Nat} {r : Request} {i : Instr} (h : decode n r = .ok i) : (slotOf r.cmd).toNat < n := by
  by_contra hge
  simp [decode, Nat.le_of_not_lt hge] at h

/-! #### The round trips -/

@[simp] theorem opcOf_encode (i : Instr) : opcOf (encode i).cmd = i.opcode := by cases i <;> exact opcOf_packCmd _ _ _ _

@[simp] theorem slotOf_encode (i : Instr) : slotOf (encode i).cmd = i.slot := by cases i <;> exact slotOf_packCmd _ _ _ _

/-- Settles O2: per command, its line of the decoder reads every operand back from the field the encoder put it in. -/
theorem decodeOfEncodeIsInstruction : Obligations.DecodeOfEncodeIsInstruction := by
  intro n i hwf
  have hslot : (slotOf (encode i).cmd).toNat < n := by
    rw [slotOf_encode]
    exact of_decide_eq_true hwf
  have hopc := opcOf_encode i
  cases i with
  | construct k poly bord refout refin init xorout =>
    rw [decode_construct hslot hopc, decodeConstruct_ok_iff]
    simp only [encode, arg8Of_packCmd, slotOf_packCmd, imm16Of_packCmd, constructArg8_fields]
    exact ⟨trivial, bord, _, _, _, _, bordOf_bordCode bord, rfl, by simp⟩
  | preset k id =>
    have hzero : (0#6 ++ presetCode id : Byte).extractLsb' 2 6 = 0#6 := BitVec.extractLsb'_append_eq_left
    have hid : (0#6 ++ presetCode id : Byte).extractLsb' 0 2 = presetCode id := BitVec.extractLsb'_append_eq_right
    rw [decode_preset_ok_iff hslot hopc]; simp [encode, hzero, hid]
  | checksum k data => rw [decode_checksum_ok_iff hslot hopc]; simp [encode]
  | update k prev data => rw [decode_update_ok_iff hslot hopc]; simp [encode]
  | toBytes k value => rw [decode_toBytes_ok_iff hslot hopc]; simp [encode]
  | buildTable k => rw [decode_buildTable_ok_iff hslot hopc]; simp [encode]
  | readTable k index => rw [decode_readTable_ok_iff hslot hopc]; simp [encode]
  | release k => rw [decode_release_ok_iff hslot hopc]; simp [encode]

/-- A command whose word has the fields of a request, and whose payload is the request's, is encoded by that request:
nothing else is in it (R75). -/
theorem encode_eq_of_fields {i : Instr} {r : Request}
    (hcmd : (encode i).cmd = packCmd (imm16Of r.cmd) (arg8Of r.cmd) (slotOf r.cmd) (opcOf r.cmd))
    (hpayload : (encode i).payload = r.payload) : encode i = r := by
  rw [packCmd_fields] at hcmd
  exact Request.mk.injEq .. ▸ ⟨hcmd, hpayload⟩

/-- What a request decodes to is encoded by that request: every field is an operand or is known to be 0. -/
theorem encode_of_decode {n : Nat} {r : Request} {i : Instr} (h : decode n r = .ok i) : encode i = r := by
  have hslot := slot_lt_of_decode h
  have hopc := (decode_fields h).2.symm
  cases i with
  | construct k poly bord refout refin init xorout =>
    rw [decode_construct hslot hopc, decodeConstruct_ok_iff] at h
    obtain ⟨hzero, b, p0, p1, p2, p3, hb, hp, hi⟩ := h
    cases hi
    have harg : constructArg8 bord ((arg8Of r.cmd).getLsbD 1) ((arg8Of r.cmd).getLsbD 0) = arg8Of r.cmd := by
      rw [constructArg8, bordCode_of_bordOf _ _ hb, ← hzero]
      exact arg8_eq_construct_fields _
    exact encode_eq_of_fields (by rw [encode, harg, hopc]; rfl) (by simp [encode, hp])
  | preset k id =>
    obtain ⟨hzero, himm, hp, hi⟩ := (decode_preset_ok_iff hslot hopc).mp h
    cases hi
    have harg : 0#6 ++ presetCode (presetOf ((arg8Of r.cmd).extractLsb' 0 2)) = arg8Of r.cmd := by
      rw [presetCode_presetOf, ← hzero]
      exact arg8_eq_preset_fields _
    exact encode_eq_of_fields (by rw [encode, harg, himm, hopc]; rfl) hp.symm
  | checksum k data =>
    obtain ⟨harg, himm, hi⟩ := (decode_checksum_ok_iff hslot hopc).mp h
    cases hi
    exact encode_eq_of_fields (by rw [harg, himm, hopc]; rfl) rfl
  | update k prev data =>
    obtain ⟨harg, hi⟩ := (decode_update_ok_iff hslot hopc).mp h
    cases hi
    exact encode_eq_of_fields (by rw [harg, hopc]; rfl) rfl
  | toBytes k value =>
    obtain ⟨harg, hp, hi⟩ := (decode_toBytes_ok_iff hslot hopc).mp h
    cases hi
    exact encode_eq_of_fields (by rw [harg, hopc]; rfl) hp.symm
  | buildTable k =>
    obtain ⟨harg, himm, hp, hi⟩ := (decode_buildTable_ok_iff hslot hopc).mp h
    cases hi
    exact encode_eq_of_fields (by rw [harg, himm, hopc]; rfl) hp.symm
  | readTable k index =>
    obtain ⟨himm, hp, hi⟩ := (decode_readTable_ok_iff hslot hopc).mp h
    cases hi
    exact encode_eq_of_fields (by rw [himm, hopc]; rfl) hp.symm
  | release k =>
    obtain ⟨harg, himm, hp, hi⟩ := (decode_release_ok_iff hslot hopc).mp h
    cases hi
    exact encode_eq_of_fields (by rw [harg, himm, hopc]; rfl) hp.symm

/-- Settles O3: the word is the encoding of what it decodes to, and the decoder takes slot and opcode from their
fields. -/
theorem encodeOfDecodeIsRequest : Obligations.EncodeOfDecodeIsRequest := by
  intro n r i h
  obtain ⟨hslot, hopc⟩ := decode_fields h
  exact ⟨encode_of_decode h, decide_eq_true (hslot ▸ slot_lt_of_decode h), hopc, hslot⟩

/-! #### The decode check (R77, R82) -/

/-- The opcode of a command is 1 to 8 (R76, R77). -/
theorem opcode_bounds (i : Instr) : 1 ≤ i.opcode.toNat ∧ i.opcode.toNat ≤ 8 := by
  cases i <;> simp [Instr.opcode]

/-- An opcode is reserved or one of the eight (R76, R77). -/
theorem opc_cases (o : BitVec 4) :
    (o.toNat = 0 ∨ 9 ≤ o.toNat) ∨ o = 0x1#4 ∨ o = 0x2#4 ∨ o = 0x3#4 ∨ o = 0x4#4 ∨ o = 0x5#4 ∨ o = 0x6#4 ∨
      o = 0x7#4 ∨ o = 0x8#4 := by
  revert o; decide

/-- A reserved opcode fails the decode check (R77). -/
theorem legal_reserved {n : Nat} {r : Request} (h : (opcOf r.cmd).toNat = 0 ∨ 9 ≤ (opcOf r.cmd).toNat) :
    legal n r = false := by
  rw [legal, Bool.and_eq_false_iff]
  right
  split
  case h_9 => rfl
  all_goals omega

/-- A slot index that names no slot fails the decode check (R72). -/
theorem legal_slot_out_of_range {n : Nat} {r : Request} (h : n ≤ (slotOf r.cmd).toNat) : legal n r = false := by
  simp [legal, h]

/-- CONSTRUCT's operands decode exactly when its line of the decode check holds (R82). -/
theorem decodeConstruct_decodes_iff (r : Request) :
    (∃ i, decodeConstruct r = .ok i) ↔
      r.cmd.extractLsb' 12 4 = 0#4 ∧ r.cmd.extractLsb' 10 2 ≠ 3#2 ∧ r.payload.length = 4 := by
  have hbord : r.cmd.extractLsb' 10 2 ≠ 3#2 ↔ ∃ b, bordOf ((arg8Of r.cmd).extractLsb' 2 2) = some b := by
    rw [extractLsb'_arg8Of _ 2 2 (by decide), ← Option.ne_none_iff_exists', ne_eq, ne_eq, bordOf_eq_none_iff]
  have hzero : r.cmd.extractLsb' 12 4 = (arg8Of r.cmd).extractLsb' 4 4 := (extractLsb'_arg8Of _ 4 4 (by decide)).symm
  rw [hbord, hzero]
  constructor
  · rintro ⟨i, h⟩
    obtain ⟨h0, b, p0, p1, p2, p3, hb, hp, -⟩ := (decodeConstruct_ok_iff r i).mp h
    exact ⟨h0, ⟨b, hb⟩, by rw [hp]; rfl⟩
  · rintro ⟨h0, ⟨b, hb⟩, hlen⟩
    match hp : r.payload, hlen with
    | [p0, p1, p2, p3], _ => exact ⟨_, (decodeConstruct_ok_iff r _).mpr ⟨h0, b, p0, p1, p2, p3, hb, hp, rfl⟩⟩

/-- A request decodes exactly when the decode check holds (R82). -/
theorem decodes_iff_legal (n : Nat) (r : Request) : (∃ i, decode n r = .ok i) ↔ legal n r = true := by
  by_cases hslot : (slotOf r.cmd).toNat < n
  · rcases opc_cases (opcOf r.cmd) with hres | h | h | h | h | h | h | h | h
    · rw [legal_reserved hres]
      refine iff_of_false ?_ Bool.false_ne_true
      rintro ⟨i, hi⟩
      have hopc := opcode_bounds i
      rw [(decode_fields hi).2] at hopc
      omega
    · simp [decode_construct hslot h, decodeConstruct_decodes_iff, legal, hslot, h, and_assoc]
    · simp [decode_preset_ok_iff hslot h, legal, hslot, h, and_assoc, extractLsb'_arg8Of]
    · simp [decode_checksum_ok_iff hslot h, legal, hslot, h]
    · simp [decode_update_ok_iff hslot h, legal, hslot, h]
    · simp [decode_toBytes_ok_iff hslot h, legal, hslot, h]
    · simp [decode_buildTable_ok_iff hslot h, legal, hslot, h, and_assoc]
    · simp [decode_readTable_ok_iff hslot h, legal, hslot, h]
    · simp [decode_release_ok_iff hslot h, legal, hslot, h, and_assoc]
  · rw [legal_slot_out_of_range (Nat.le_of_not_lt hslot)]
    refine iff_of_false ?_ Bool.false_ne_true
    rintro ⟨i, hi⟩
    exact hslot (slot_lt_of_decode hi)

end Sys2Proof

namespace Sys2Proof.Machine

/-- A request that fails the decode check is answered ERR_ILLEGAL (R222). -/
theorem perform_of_not_legal {s : State} {r : Request} (h : legal s.numSlots r = false) :
    perform r s = raise .errIllegal s := by
  cases hd : decode s.numSlots r with
  | error e => exact perform_of_error hd
  | ok i => simp [(decodes_iff_legal s.numSlots r).mp ⟨i, hd⟩] at h

/-- Settles O1: `legal` is the decode check, and each opcode selects its line of `legal`. -/
theorem decodeCheckIsLegal : Obligations.DecodeCheckIsLegal := by
  intro n cmd payload
  refine ⟨(decodes_iff_legal n _).trans ?_, decodes_iff_legal n _, ?_⟩
  · rcases opc_cases (opcOf cmd) with hres | h | h | h | h | h | h | h | h
    · rw [legal_reserved hres]
      exact iff_of_false Bool.false_ne_true fun hlines => by omega
    all_goals simp [legal, h, and_assoc]
  · rintro s rfl hillegal
    exact perform_of_not_legal hillegal

/-- Settles O5: the decode check has no line for a reserved opcode, and the all-zero word has one. -/
theorem reservedOpcodesAreIllegal : Obligations.ReservedOpcodesAreIllegal := by
  refine ⟨fun s r hres => ?_, fun n payload => legal_reserved (.inl rfl)⟩
  have hillegal := legal_reserved (n := s.numSlots) hres
  exact ⟨hillegal, perform_of_not_legal hillegal⟩

/-! #### The shape of responses (R80) -/

/-- What an OK response to a command holds besides its status (R80): two bytes only for TO_BYTES, DATA only for CHECKSUM,
UPDATE and READ_TABLE. -/
def OkShape (i : Instr) (s : State) (r : Response) : Prop :=
  match i with
  | .toBytes k value => r.data = 0 ∧ ∃ sl, s.slots[k.toNat]? = some sl ∧ r.out = serialize value sl.cfg.bord
  | .checksum _ _ | .update _ _ _ | .readTable _ _ => r.out = []
  | .construct _ _ _ _ _ _ _ | .preset _ _ | .buildTable _ | .release _ => r.data = 0 ∧ r.out = []

/-- Every response that `o` answers with is an error response or meets `P`. -/
def AnswersErrorOr (P : Response → Prop) (o : Result) : Prop :=
  ∀ t r, o = .next t → t.response = some r → r.status ≠ .ok ∨ P r

theorem answersErrorOr_respond {P : Response → Prop} (s : State) {st : Status} {d : Word} {o : List Byte}
    (h : st ≠ .ok ∨ P { status := st, data := d, out := o }) : AnswersErrorOr P (.next (s.respond st d o)) := by
  intro t r ht hr
  cases ht
  cases hr
  exact h

theorem answersErrorOr_onSlot {P : Response → Prop} {k : BitVec 4} {s : State} {body : Slot → Result}
    (h : ∀ sl, s.slots[k.toNat]? = some sl → AnswersErrorOr P (body sl)) : AnswersErrorOr P (onSlot k s body) := by
  cases hk : s.slots[k.toNat]? with
  | none => rw [onSlot_none hk]; exact answersErrorOr_respond s (.inl (by decide))
  | some sl => rw [onSlot_some hk]; exact h sl hk

theorem answersErrorOr_withinBound {P : Response → Prop} {data : List Byte} {s : State} {body : Result}
    (h : AnswersErrorOr P body) : AnswersErrorOr P (withinBound data s body) := by
  cases hl : tooLong s.maxPayload data with
  | true => rw [withinBound_long hl]; exact answersErrorOr_respond s (.inl (by decide))
  | false => rw [withinBound_short hl]; exact h

theorem answersErrorOr_onLive {P : Response → Prop} {sl : Slot} {s : State} {body : Result}
    (h : AnswersErrorOr P body) : AnswersErrorOr P (onLive sl s body) := by
  cases hv : sl.valid with
  | false => rw [onLive_empty hv]; exact answersErrorOr_respond s (.inl (by decide))
  | true => rw [onLive_valid hv]; exact h

/-- Every command answers with an error response or with one of its own shape (R80). -/
theorem answersErrorOr_exec (i : Instr) (s : State) : AnswersErrorOr (OkShape i s) (exec i s) := by
  cases i with
  | construct k poly bord refout refin init xorout =>
    exact answersErrorOr_onSlot fun _ _ => answersErrorOr_respond _ (.inr ⟨rfl, rfl⟩)
  | preset k id => exact answersErrorOr_onSlot fun _ _ => answersErrorOr_respond _ (.inr ⟨rfl, rfl⟩)
  | checksum k data =>
    exact answersErrorOr_onSlot fun _ _ =>
      answersErrorOr_withinBound (answersErrorOr_onLive (answersErrorOr_respond _ (.inr rfl)))
  | update k prev data =>
    exact answersErrorOr_onSlot fun _ _ =>
      answersErrorOr_withinBound (answersErrorOr_onLive (answersErrorOr_respond _ (.inr rfl)))
  | toBytes k value =>
    exact answersErrorOr_onSlot fun sl hk =>
      answersErrorOr_onLive (answersErrorOr_respond _ (.inr ⟨rfl, sl, hk, rfl⟩))
  | buildTable k =>
    exact answersErrorOr_onSlot fun _ _ => answersErrorOr_onLive (answersErrorOr_respond _ (.inr ⟨rfl, rfl⟩))
  | readTable k index =>
    exact answersErrorOr_onSlot fun _ _ => answersErrorOr_onLive (answersErrorOr_respond _ (.inr rfl))
  | release k =>
    exact answersErrorOr_onSlot fun _ _ => answersErrorOr_onLive (answersErrorOr_respond _ (.inr ⟨rfl, rfl⟩))

/-- The serializer gives two bytes exactly in a byte order (R200). -/
theorem length_serialize_eq_two_iff (v : Word) (bord : ByteOrder) : (serialize v bord).length = 2 ↔ bord ≠ .none := by
  cases bord <;> simp [serialize]

/-- An OK response has two bytes exactly when it answers TO_BYTES on a slot with a byte order (R80, R201). -/
theorem OkShape.length_out_eq_two_iff {i : Instr} {s : State} {r : Response} (h : OkShape i s r) :
    r.out.length = 2 ↔ i.opcode = 0x5#4 ∧ ∃ sl, s.slots[i.slot.toNat]? = some sl ∧ sl.cfg.bord ≠ .none := by
  cases i with
  | toBytes k value =>
    obtain ⟨-, sl, hk, hout⟩ := h
    simp [hout, length_serialize_eq_two_iff, Instr.opcode, Instr.slot, hk]
  | checksum | update | readTable =>
    have hout : r.out = [] := h
    simp [hout, Instr.opcode]
  | construct | preset | buildTable | release =>
    obtain ⟨-, hout⟩ := h
    simp [hout, Instr.opcode]

/-- An OK response has DATA only for CHECKSUM, UPDATE and READ_TABLE (R80). -/
theorem OkShape.data_eq_zero {i : Instr} {s : State} {r : Response} (h : OkShape i s r)
    (hi : i.opcode ≠ 0x3#4 ∧ i.opcode ≠ 0x4#4 ∧ i.opcode ≠ 0x7#4) : r.data = 0 := by
  cases i with
  | checksum | update | readTable => simp [Instr.opcode] at hi
  | construct | preset | toBytes | buildTable | release => exact h.1

/-- Settles O34: an error response has neither bytes nor DATA, and what an OK response has follows from its command. -/
theorem responseShape : Obligations.ResponseShape := by
  intro s t r resp ht hresp
  obtain ⟨hlen, herr⟩ := perform_answersWellShaped r s t resp ht hresp
  refine ⟨hlen.imp_left List.length_eq_zero_iff.mp, ?_⟩
  by_cases hst : resp.status = .ok
  · obtain ⟨i, hd⟩ : ∃ i, decode s.numSlots r = .ok i := by
      cases hd : decode s.numSlots r with
      | error e =>
        rw [perform_of_error hd] at ht
        cases ht
        cases hresp
        cases hst
      | ok i => exact ⟨i, rfl⟩
    rw [perform_of_decode hd] at ht
    have hok : OkShape i s resp := (answersErrorOr_exec i s t resp ht hresp).resolve_left (not_not.mpr hst)
    obtain ⟨hslot, hopc⟩ := decode_fields hd
    rw [← hslot, ← hopc]
    exact ⟨by simp [hst, hok.length_out_eq_two_iff], fun h => hok.data_eq_zero (h.resolve_left (not_not.mpr hst))⟩
  · obtain ⟨hdata, hout⟩ := herr hst
    exact ⟨by simp [hout, hst], fun _ => hdata⟩

/-! #### The packed response word (R81) -/

@[simp] theorem ofCode_code (st : Status) : Status.ofCode st.code = some st := by cases st <;> rfl

theorem code_of_ofCode {c : BitVec 4} {st : Status} (h : Status.ofCode c = some st) : st.code = c := by
  revert c st; decide

/-- The packed word's fields are what it was packed from. -/
theorem extract_packResponse (r : Response) :
    (packResponse r).extractLsb' 28 4 = r.status.code ∧ (packResponse r).extractLsb' 17 11 = 0#11 ∧
    (packResponse r).getLsbD 16 = outValid r ∧ (packResponse r).extractLsb' 0 16 = r.data := by
  refine ⟨?_, ?_, ?_, BitVec.extractLsb'_append_eq_right⟩
  · rw [packResponse, BitVec.extractLsb'_append_eq_of_le (by decide), BitVec.extractLsb'_append_eq_of_le (by decide)]
    exact BitVec.extractLsb'_append_eq_left
  · rw [packResponse, BitVec.extractLsb'_append_eq_of_le (by decide), BitVec.extractLsb'_append_eq_of_le (by decide)]
    exact BitVec.extractLsb'_append_eq_right
  · rw [packResponse, BitVec.getLsbD_append, BitVec.getLsbD_append]
    simp

/-- OUTV tells the two numbers of output bytes apart (R80, R81). -/
theorem outValid_eq_of_length {r : Response} {b : Bool} (h : r.out.length = if b then 2 else 0) : outValid r = b := by
  cases b with
  | false => simp [outValid, List.length_eq_zero_iff.mp h]
  | true =>
    have hne : r.out ≠ [] := List.ne_nil_of_length_eq_add_one h
    simp [outValid, hne]

/-- A response with 0 or 2 output bytes has the number that its OUTV says (R81). -/
theorem length_out_eq_outValid {r : Response} (h : r.out = [] ∨ r.out.length = 2) :
    r.out.length = if outValid r then 2 else 0 := by
  rcases h with h | h
  · simp [outValid, h]
  · rw [outValid_eq_of_length (b := true) h, if_pos rfl, h]

/-- A response word is its four fields (R81). -/
theorem respWord_fields (w : CmdWord) :
    w.extractLsb' 28 4 ++ w.extractLsb' 17 11 ++ BitVec.ofBool (w.getLsbD 16) ++ w.extractLsb' 0 16 = w := by
  rw [ofBool_getLsbD, extractLsb'_append_adjacent w 17 11 4, extractLsb'_append_adjacent w 16 1 15,
    extractLsb'_append_adjacent w 0 16 16]
  exact BitVec.extractLsb'_eq_self

/-- A word and bytes stand for a response exactly when the word has a status code, zeros, the OUTV of the bytes' number
and the DATA of the response in their places (R81). -/
theorem unpackResponse_eq_some_iff (w : CmdWord) (out : List Byte) (r : Response) :
    unpackResponse w out = some r ↔
      Status.ofCode (w.extractLsb' 28 4) = some r.status ∧ w.extractLsb' 17 11 = 0#11 ∧
        out.length = (if w.getLsbD 16 then 2 else 0) ∧ w.extractLsb' 0 16 = r.data ∧ out = r.out := by
  unfold unpackResponse
  cases hst : Status.ofCode (w.extractLsb' 28 4) with
  | none => simp
  | some st =>
    cases r
    simp only [Option.ite_none_right_eq_some, Option.some.injEq, Response.mk.injEq, and_assoc]
    tauto

/-- Settles O35: packing puts each field in its place, unpacking reads it there, and a response word holds no other
fields. -/
theorem packedResponseCarriesSame : Obligations.PackedResponseCarriesSame := by
  refine ⟨fun r hout => ?_, fun w out r h => ?_⟩
  · obtain ⟨hst, hzero, houtv, hdata⟩ := extract_packResponse r
    have hlen := length_out_eq_outValid hout
    have hunpack : unpackResponse (packResponse r) r.out = some r := by
      rw [unpackResponse_eq_some_iff, hst, houtv]
      exact ⟨ofCode_code _, hzero, hlen, hdata, rfl⟩
    refine ⟨hst, hzero, ?_, hdata, hunpack⟩
    rw [houtv, hlen]
    simp
  · obtain ⟨hst, hzero, hlen, hdata, rfl⟩ := (unpackResponse_eq_some_iff w out r).mp h
    refine ⟨?_, rfl⟩
    rw [packResponse, outValid_eq_of_length hlen, code_of_ofCode hst, ← hzero, ← hdata]
    exact respWord_fields w

/-! #### The assembler (R85) -/

@[simp] theorem slotField_toNat (k : BitVec 4) : slotField k.toNat = some k := by simp [slotField, k.isLt]

@[simp] theorem wordField_toNat (v : Word) : wordField (.num v.toNat) = some v := by simp [wordField, v.isLt]

@[simp] theorem byteField_toNat (b : Byte) : byteField (.num b.toNat) = some b := by simp [byteField, b.isLt]

@[simp] theorem flagField_toNat (b : Bool) : flagField (.num b.toNat) = some b := by cases b <;> rfl

@[simp] theorem orderField_orderKeyword (b : ByteOrder) : orderField (.word (orderKeyword b)) = some b := by
  cases b <;> rfl

@[simp] theorem presetField_presetKeyword (p : PresetId) : presetField (presetKeyword p) = some p := by cases p <;> rfl

/-- The rest of a byte list after its opening bracket or a comma is read as its bytes. -/
theorem payloadOf_byteListTail_cons (b : Byte) (bytes acc : List Byte) {m : PayloadMode} (hm : m = .first ∨ m = .item) :
    payloadOf (byteListTail (b :: bytes)) m acc = some (acc ++ b :: bytes) := by
  induction bytes generalizing b acc m with
  | nil => rcases hm with rfl | rfl <;> simp [byteListTail, payloadOf, b.isLt]
  | cons c rest ih =>
    have hrest := ih c (acc ++ [b]) (.inr rfl)
    rcases hm with rfl | rfl <;> simp [byteListTail, payloadOf, b.isLt, hrest]

/-- A byte list is read as its bytes. -/
theorem payloadOf_byteList (data : List Byte) : payloadOf (.openList :: byteListTail data) .part [] = some data := by
  cases data with
  | nil => rfl
  | cons b bytes => exact payloadOf_byteListTail_cons b bytes [] (.inl rfl)

/-- The line a command is written as names that command: each operand is read back from its token (R85). -/
theorem lineOf_tokensOf (i : Instr) : lineOf (tokensOf i) = some i := by
  cases i with
  | construct k poly bord refout refin init xorout =>
    simp [tokensOf, lineOf, argumentsOf, constructLine, argument]
  | preset k id => simp [tokensOf, lineOf]
  | checksum k data => simp [tokensOf, lineOf, payloadOf_byteList]
  | update k prev data => simp [tokensOf, lineOf, payloadOf_byteList]
  | toBytes k value => simp [tokensOf, lineOf]
  | buildTable k => simp [tokensOf, lineOf]
  | readTable k index => simp [tokensOf, lineOf]
  | release k => simp [tokensOf, lineOf]

/-- Settles O56: the line names the command, which is then encoded. -/
theorem assembledLineIsEncoding : Obligations.AssembledLineIsEncoding := by
  intro i
  rw [lineOf_tokensOf]
  rfl

/-- A keyword's value is that of the one argument with this keyword (R85). -/
theorem argument_eq_some_iff (args : List (Keyword × Token)) (w : Keyword) (v : Token) :
    argument args w = some v ↔ (args.filter fun a => a.1 == w) = [(w, v)] := by
  unfold argument
  constructor
  · intro h
    split at h
    · rename_i a ha
      have hkey : a ∈ args.filter fun a => a.1 == w := ha ▸ List.mem_singleton_self a
      have haw : a.1 = w := by simpa using (List.mem_filter.mp hkey).2
      rw [ha, ← haw, ← Option.some.inj h]
    · cases h
  · intro h
    rw [h]

/-- The order of the arguments does not tell in a keyword's value (R85). -/
theorem argument_perm {args args' : List (Keyword × Token)} (h : args.Perm args') (w : Keyword) :
    argument args w = argument args' w := by
  apply Option.ext
  intro v
  rw [argument_eq_some_iff, argument_eq_some_iff]
  have hfilter := h.filter fun a => a.1 == w
  exact ⟨fun hv => (hv ▸ hfilter).symm.eq_singleton, fun hv => (hv ▸ hfilter).eq_singleton⟩

/-- Settles O57: neither the value of a keyword nor the number of arguments depends on their order. -/
theorem constructKeywordsInAnyOrder : Obligations.ConstructKeywordsInAnyOrder := by
  intro k args args' h
  simp [constructLine, argument_perm h, h.length_eq]

end Sys2Proof.Machine

/-! ### Proofs of the configuration commands: words of the spec, the frame of a command, engines that begin and end, check
values, independence of slots -/

namespace Sys2Proof.Machine

/-! #### Words of the spec (R75, R82) -/

/-- A request that encodes a well-formed command decodes to it (R75, R83). -/
theorem decode_of_encode_eq {n : Nat} {r : Request} {i : Instr} (hr : encode i = r) (hwf : i.wf n = true) :
    decode n r = .ok i :=
  hr ▸ decodeOfEncodeIsInstruction n i hwf

/-- Settles O4: each word is the encoding of its command. -/
theorem specWordsDecode : Obligations.SpecWordsDecode :=
  ⟨decode_of_encode_eq rfl rfl, decode_of_encode_eq rfl rfl, decode_of_encode_eq rfl rfl, decode_of_encode_eq rfl rfl,
    decode_of_encode_eq rfl rfl, decode_of_encode_eq rfl rfl, decode_of_encode_eq rfl rfl, decode_of_encode_eq rfl rfl⟩

/-! #### Beginning and ending an engine (R101 to R105) -/

/-- Every command leaves everything but its slot alone (R102, R106). -/
theorem exec_onlySlot {i : Instr} {s t : State} (h : exec i s = .next t) : OnlySlot i.slot s t := by
  obtain ⟨u, st, d, o, hu, hexec⟩ := exec_effect i s
  cases hexec.symm.trans h
  obtain ⟨hlen, hreq, hmax, harb, -⟩ := hu.frame
  exact ⟨hlen, hu.other_slots, hreq, hmax, harb⟩

/-- A command that begins an engine completes on every slot of the block: the new engine is in its slot, the response is
OK, and nothing else changes (R101, R102, R104). -/
theorem exec_begins {i : Instr} {s : State} {cfg : Configuration} (hi : exec i s = beginEngine i.slot cfg s)
    (hlt : i.slot.toNat < s.numSlots) :
    ∃ t, exec i s = .next t ∧ t.slots[i.slot.toNat]? = some (Slot.begin cfg s.draws) ∧
      t.response = some { status := .ok, data := 0, out := [] } ∧ OnlySlot i.slot s t := by
  have hk := List.getElem?_eq_getElem hlt
  have hexec := hi.trans (beginEngine_some hk cfg)
  exact ⟨_, hexec, State.getElem?_setSlot hk _, rfl, exec_onlySlot hexec⟩

/-- Settles O19: the engine that CONSTRUCT begins has the six operands as its configuration. -/
theorem constructBeginsEngine : Obligations.ConstructBeginsEngine := by
  intro s k poly bord refout refin init xorout hlt
  obtain ⟨t, hexec, hslot, hresp, honly⟩ :=
    exec_begins (i := .construct k poly bord refout refin init xorout) rfl hlt
  exact ⟨t, _, hexec, hslot, rfl, rfl, rfl, rfl, rfl, rfl, rfl, rfl, hresp, honly⟩

/-- Settles O20: the engine that PRESET begins has its ROM row as its configuration. -/
theorem presetBeginsEngine : Obligations.PresetBeginsEngine := by
  intro s k id hlt
  obtain ⟨t, hexec, hslot, hresp, honly⟩ := exec_begins (i := .preset k id) rfl hlt
  exact ⟨t, _, hexec, hslot, rfl, rfl, by cases id <;> rfl, hresp, honly⟩

/-- PRESET is CONSTRUCT with the fields of its ROM row: both begin an engine with the same configuration (R104). -/
theorem exec_preset_eq_construct (s : State) (k : BitVec 4) (id : PresetId) :
    exec (.preset k id) s =
      exec (.construct k (presetRom id).poly (presetRom id).bord (presetRom id).refout (presetRom id).refin
        (presetRom id).init (presetRom id).xorout) s := rfl

/-- Settles O21: the four ROM rows, put into the equation of PRESET and CONSTRUCT. -/
theorem presetEqualsConstruct : Obligations.PresetEqualsConstruct := fun s k =>
  ⟨exec_preset_eq_construct s k .xmodem, exec_preset_eq_construct s k .kermit,
    exec_preset_eq_construct s k .ccittFalse, exec_preset_eq_construct s k .modbus⟩

/-- Settles O22: RELEASE of a live slot writes an ended slot, and by its frame nothing else. -/
theorem releaseEndsEngine : Obligations.ReleaseEndsEngine := by
  intro s k sl hk hv
  have hexec := exec_release_valid hk hv
  exact ⟨_, _, hexec, State.getElem?_setSlot hk (Slot.ended s.draws), rfl, rfl, rfl, exec_onlySlot hexec⟩

/-! #### Check values (R103) -/

/-- CHECKSUM on a live faithful slot, built or not, answers the bit-serial division of the data, which reads the
configuration alone (R132, R160, R164). -/
theorem exec_checksum_response {s : State} {k : BitVec 4} {sl : Slot} {data : List Byte}
    (hk : s.slots[k.toNat]? = some sl) (hv : sl.valid = true) (hf : sl.faithful)
    (hlen : tooLong s.maxPayload data = false) :
    ∃ t, exec (.checksum k data) s = .next t ∧
      t.response = some
        { status := .ok
          data := outX sl.cfg (data.foldl
            (fun v b => serialByte sl.cfg.poly v (if sl.cfg.refin = true then rev8 b else b)) sl.cfg.init)
          out := [] } := by
  have hexec := (usesTable_exec s k sl hk hv).1 data hlen
  have htable : (ensureTable sl).table = build (ensureTable sl).cfg.poly (ensureTable sl).cfg.refin := by
    rw [ensureTable_cfg, ensureTable_table sl hf]
  refine ⟨_, hexec, ?_⟩
  rw [State.respond_response, runPipeline, feed_eq_foldl_serialByte htable, ensureTable_cfg]

/-- Settles O45: after PRESET the slot is live and UNBUILT with its ROM row, so CHECKSUM divides by that row's
polynomial, which is computed for each of the four. -/
theorem presetCheckValues : Obligations.PresetCheckValues := by
  refine ⟨⟨rfl, rfl, rfl, rfl⟩, fun s k id hlt hlen => ?_⟩
  obtain ⟨t, hpreset, hslot, -, honly⟩ := exec_begins (i := .preset k id) rfl hlt
  rw [← honly.maxPayload_eq] at hlen
  obtain ⟨u, hchecksum, hresp⟩ := exec_checksum_response hslot rfl (faithful_of_unbuilt rfl) hlen
  refine ⟨t, u, hpreset, hchecksum, hresp.trans ?_⟩
  rw [Slot.begin_cfg]
  cases id <;> decide +kernel

/-! #### Slots are independent (R106) -/

/-- BUILD_TABLE on a live slot keeps the built table there (R137, R139). -/
theorem exec_buildTable_valid {s : State} {k : BitVec 4} {sl : Slot} (hk : s.slots[k.toNat]? = some sl)
    (hv : sl.valid = true) :
    ∃ t, exec (.buildTable k) s = .next t ∧ t.slots[k.toNat]? = some (ensureTable sl) ∧ OnlySlot k s t := by
  obtain ⟨-, -, hexec, -⟩ := usesTable_exec s k sl hk hv
  exact ⟨_, hexec, State.getElem?_setSlot hk _, exec_onlySlot hexec⟩

/-- Both results are next states, and these carry the same response. -/
def SameResponse (o o' : Result) : Prop :=
  ∃ t t', o = .next t ∧ o' = .next t' ∧ t.response = t'.response

theorem sameResponse_respond (u u' : State) (st : Status) (d : Word) (o : List Byte) :
    SameResponse (.next (u.respond st d o)) (.next (u'.respond st d o)) :=
  ⟨_, _, rfl, rfl, rfl⟩

theorem sameResponse_onSlot {s s' : State} {k : BitVec 4} (hk : s.slots[k.toNat]? = s'.slots[k.toNat]?)
    {body body' : Slot → Result} (hb : ∀ sl, SameResponse (body sl) (body' sl)) :
    SameResponse (onSlot k s body) (onSlot k s' body') := by
  cases h : s.slots[k.toNat]? with
  | none => rw [onSlot_none h, onSlot_none (hk ▸ h)]; exact sameResponse_respond _ _ _ _ _
  | some sl => rw [onSlot_some h, onSlot_some (hk ▸ h)]; exact hb sl

theorem sameResponse_withinBound {s s' : State} (hmax : s.maxPayload = s'.maxPayload) {data : List Byte}
    {body body' : Result} (hb : SameResponse body body') :
    SameResponse (withinBound data s body) (withinBound data s' body') := by
  cases h : tooLong s.maxPayload data with
  | true => rw [withinBound_long h, withinBound_long (hmax ▸ h)]; exact sameResponse_respond _ _ _ _ _
  | false => rwa [withinBound_short h, withinBound_short (hmax ▸ h)]

theorem sameResponse_onLive (s s' : State) (sl : Slot) {body body' : Result} (hb : SameResponse body body') :
    SameResponse (onLive sl s body) (onLive sl s' body') := by
  cases h : sl.valid with
  | false => rw [onLive_empty h, onLive_empty h]; exact sameResponse_respond _ _ _ _ _
  | true => rwa [onLive_valid h, onLive_valid h]

/-- A command's response depends on its own slot and the payload bound only: each check of R225 sees nothing else, and
neither does what the command answers with. -/
theorem exec_sameResponse (i : Instr) {s s' : State} (hslot : s.slots[i.slot.toNat]? = s'.slots[i.slot.toNat]?)
    (hmax : s.maxPayload = s'.maxPayload) : SameResponse (exec i s) (exec i s') := by
  cases exec_form i with
  | begins _ cfg hexec =>
    rw [hexec, hexec]
    exact sameResponse_onSlot hslot fun _ => sameResponse_respond _ _ _ _ _
  | usesTable _ body hexec =>
    rw [hexec, hexec]
    exact sameResponse_onSlot hslot fun sl =>
      sameResponse_withinBound hmax (sameResponse_onLive s s' sl (sameResponse_respond _ _ _ _ _))
  | serializes _ value hexec =>
    rw [hexec, hexec]
    exact sameResponse_onSlot hslot fun sl => sameResponse_onLive s s' sl (sameResponse_respond _ _ _ _ _)
  | ends _ hexec =>
    rw [hexec, hexec]
    exact sameResponse_onSlot hslot fun sl => sameResponse_onLive s s' sl (sameResponse_respond _ _ _ _ _)

/-- Settles O51: a command's frame is all but its slot; of two slots built one after the other, neither build reaches the
other slot, and both give the table of the one configuration; no check or answer sees another slot. -/
theorem slotsAreIndependent : Obligations.SlotsAreIndependent := by
  refine ⟨fun i s => ?_, fun s j k a b hjk ha hb hva hvb hta htb hcfg => ?_,
    fun i _ _ hslot hmax => exec_sameResponse i hslot hmax⟩
  · obtain ⟨u, st, d, o, -, hexec⟩ := exec_effect i s
    exact ⟨_, hexec, exec_onlySlot hexec⟩
  · have hne : j.toNat ≠ k.toNat := mt BitVec.eq_of_toNat_eq hjk
    obtain ⟨t, hexecj, hbuilt, honlyj⟩ := exec_buildTable_valid ha hva
    have hbt : t.slots[k.toNat]? = some b := (honlyj.others _ hne.symm).trans hb
    obtain ⟨u, hexeck, hbuilt', honlyk⟩ := exec_buildTable_valid hbt hvb
    refine ⟨t, u, _, _, hexecj, hbt, hexeck, (honlyk.others _ hne).trans hbuilt, hbuilt', ?_⟩
    rw [ensureTable_of_unbuilt a hta, ensureTable_of_unbuilt b htb, hcfg]

end Sys2Proof.Machine

/-! ### Proofs about the table builder: the write loop, who writes a table, linearity, the LSB-first register, the table
commands -/

namespace Sys2Proof.Machine

/-! #### The lazy build is a loop of writes (R137) -/

/-- A loop of writes touches the table only (R12). -/
theorem foldl_tWrite_eq (f : Byte → Word) (is : List Byte) (sl : Slot) :
    is.foldl (fun a i => tWrite a i (f i)) sl =
      { sl with table := (is.foldl (fun a i => tWrite a i (f i)) sl).table } := by
  induction is generalizing sl with
  | nil => rfl
  | cons i is ih => exact ih (tWrite sl i (f i))

/-- After a loop of writes the written entries hold what was written, the others what they held. -/
theorem tRead_foldl_tWrite (f : Byte → Word) (is : List Byte) (sl : Slot) (j : Byte) :
    tRead (is.foldl (fun a i => tWrite a i (f i)) sl) j = if j ∈ is then f j else tRead sl j := by
  induction is generalizing sl with
  | nil => simp
  | cons i is ih =>
    rw [List.foldl_cons, ih, tRead_tWrite]
    by_cases hi : i = j
    · simp [hi]
    · simp [hi, Ne.symm hi]

/-- A table that reads as `build(poly, refin)` at every index is that table. -/
theorem table_eq_build {sl : Slot} {poly : Word} {refin : Bool} (h : ∀ i, tRead sl i = tableEntry poly refin i) :
    sl.table = build poly refin := by
  apply Vector.ext
  intro i hi
  have hread := (h (BitVec.ofNat 8 i)).trans (build_get poly refin (BitVec.ofNat 8 i)).symm
  simpa only [tRead, BitVec.toNat_ofNat, Nat.mod_eq_of_lt hi] using hread

/-- The loop of R137 names every index. -/
theorem mem_allIndices (j : Byte) : j ∈ (List.range 256).map (BitVec.ofNat 8) :=
  List.mem_map.mpr ⟨j.toNat, List.mem_range.mpr j.isLt, by simp⟩

/-- Writing every entry of `build(poly, refin)`, in whatever order, leaves that table and changes nothing else. -/
theorem foldl_tWrite_build (poly : Word) (refin : Bool) {is : List Byte} (his : ∀ j, j ∈ is) (sl : Slot) :
    is.foldl (fun a i => tWrite a i (tableEntry poly refin i)) sl = { sl with table := build poly refin } := by
  rw [foldl_tWrite_eq, table_eq_build fun j => by rw [tRead_foldl_tWrite, if_pos (his j)]]

/-- Settles O38: the loop writes the entry of every index, which makes the table the configuration's; BUILT slots are
left alone, and a build leaves one. -/
theorem lazyBuildIsTheWriteLoop : Obligations.LazyBuildIsTheWriteLoop := by
  refine ⟨fun sl hunbuilt => ?_, ensureTable_of_built, ensureTable_ensureTable⟩
  have hloop := foldl_tWrite_build sl.cfg.poly sl.cfg.refin mem_allIndices sl
  rw [List.foldl_map] at hloop
  simp only [build_get, hloop, ensureTable_of_unbuilt sl hunbuilt]

/-! #### Who writes a table (R141) -/

/-- A slot whose engine a command neither begins nor ends is left as it was, or built (R30, R141). -/
theorem exec_slot_same_or_built {i : Instr} {s t : State} {j : Nat} {sl : Slot} (h : exec i s = .next t)
    (hsl : s.slots[j]? = some sl) (hno : ¬ (i.reconfigures = true ∧ j = i.slot.toNat)) :
    t.slots[j]? = some sl ∨ t.slots[j]? = some (ensureTable sl) := by
  by_cases hj : j = i.slot.toNat
  · subst hj
    have hi : i.reconfigures = false := by simpa using hno
    obtain ⟨u, st, d, o, rfl, rfl | ⟨sl', hk, -, rfl⟩⟩ := exec_keeps_or_builds hi h
    · exact .inl hsl
    · cases hk.symm.trans hsl
      exact .inr (State.getElem?_setSlot hsl _)
  · exact .inl ((exec_other_slots h hj).trans hsl)

/-- Settles O40: the slot is as it was or built, and the lazy build is nothing on a BUILT slot. -/
theorem builtTableIsReadOnly : Obligations.BuiltTableIsReadOnly := by
  intro i s t j sl h hsl hno
  rcases exec_slot_same_or_built h hsl hno with hsame | hbuild
  · exact ⟨sl, hsame, fun hb => ⟨rfl, hb⟩, fun _ => .inl rfl⟩
  · exact ⟨_, hbuild, fun hb => ⟨by rw [ensureTable_of_built sl hb], ensureTable_tstate sl⟩, fun _ => .inr rfl⟩

/-! #### Linearity (R142 (a), (b), (d)) -/

/-- Entry 0 is 0, for it is the XOR of entry 0 with itself. -/
theorem tableEntry_zero (poly : Word) (refin : Bool) : tableEntry poly refin 0 = 0 := by
  have h := tableEntry_xor poly refin 0 0
  rwa [BitVec.xor_self, BitVec.xor_self] at h

theorem tableEntry_false (poly : Word) (i : Byte) : tableEntry poly false i = normalEntry poly i := rfl

/-- Seven plain shifts bring the seed of index 1 to bit 15, and the eighth shifts it out and leaves POLY. -/
theorem normalEntry_one (poly : Word) : normalEntry poly 1 = poly := by
  have hseed : seed 1 = (0x80 : Byte).zeroExtend 16 <<< 1 := by decide
  have hseven : (shiftStep poly)^[7] (seed 1) = 0x8000#16 := by
    rw [hseed, ← shiftSteps_eq_iterate, shiftSteps_low poly _ 7 1 (by omega)]
    decide
  have hlast : shiftStep poly 0x8000#16 = poly := by simp [shiftStep]
  rw [normalEntry, step8, shiftSteps_eq_iterate, Function.iterate_succ_apply', hseven, hlast]

/-- Settles O41, entry by entry. -/
theorem tablesAreLinear : Obligations.TablesAreLinear := by
  intro sl poly refin htable
  have hread := tRead_of_table sl poly refin htable
  refine ⟨?_, fun a b => ?_, fun hnormal => ?_⟩
  · rw [hread, tableEntry_zero]
  · rw [hread, hread, hread, tableEntry_xor]
  · rw [hread, hnormal, tableEntry_false, normalEntry_one]

/-! #### The LSB-first register (R142 (c)) -/

/-- One shift of an LSB-first register: to the right, the bit tested is r[0] before the shift. -/
def lsbShiftStep (mask r : Word) : Word := if r.getLsbD 0 = true then (r >>> 1) ^^^ mask else r >>> 1

/-- Reversal turns a shift of R132 into an LSB-first shift with the reversed mask. -/
theorem rev16_shiftStep (poly r : Word) : rev16 (shiftStep poly r) = lsbShiftStep (rev16 poly) (rev16 r) := by
  have htested : (rev16 r).getLsbD 0 = r.getLsbD 15 := getLsbD_rev16 r 0 (by omega)
  unfold shiftStep lsbShiftStep
  rw [htested, apply_ite rev16, rev16_xor, rev16_shiftLeft]

/-- The same for any number of shifts. -/
theorem rev16_iterate_shiftStep (poly : Word) (n : Nat) (r : Word) :
    rev16 ((shiftStep poly)^[n] r) = (lsbShiftStep (rev16 poly))^[n] (rev16 r) :=
  Function.Semiconj.iterate_right (f := rev16) (rev16_shiftStep poly) n r

/-- The seed of the reversed index, reversed, is the index itself in the low byte (R130, R131, R135). -/
theorem rev16_seed_rev8 (i : Byte) : rev16 (seed (rev8 i)) = i.zeroExtend 16 := by
  apply BitVec.eq_of_getLsbD_eq
  intro j hj
  rw [getLsbD_rev16 _ j hj]
  by_cases hlow : j < 8
  · have hge : ¬ 15 - j < 8 := by omega
    have hindex : 7 - (15 - j - 8) = j := by omega
    have hlt : 15 - j < 16 := by omega
    simp [seed, hj, hge, hlt, getLsbD_rev8 i (15 - j - 8) (by omega), hindex]
  · have hlt : 15 - j < 8 := by omega
    simp [seed, hlt, BitVec.getLsbD_of_ge i j (by omega)]

/-- Settles O42: the reversal of R135 moves through the eight shifts to the seed. -/
theorem reflectedTableIsLsbFirst : Obligations.ReflectedTableIsLsbFirst := by
  intro sl poly htable i
  have hentry : tableEntry poly true i = rev16 ((shiftStep poly)^[8] (seed (rev8 i))) := by
    rw [← shiftSteps_eq_iterate]
    rfl
  rw [tRead_of_table sl poly true htable, hentry, rev16_iterate_shiftStep, rev16_seed_rev8]
  rfl

/-! #### BUILD_TABLE and READ_TABLE (R136, R139, R140) -/

/-- A command that uses the table of a faithful slot leaves it built, answers OK with its word, and draws nothing
(R137, R138). -/
theorem exec_of_usingTable {i : Instr} {s : State} {sl : Slot} {body : Slot → Word}
    (hexec : exec i s = usingTable i.slot sl s body) (hk : s.slots[i.slot.toNat]? = some sl) (hf : sl.faithful) :
    ∃ t, exec i s = .next t ∧
      t.slots[i.slot.toNat]? = some { sl with table := build sl.cfg.poly sl.cfg.refin, tstate := .built } ∧
      t.response = some { status := .ok, data := body (ensureTable sl), out := [] } ∧ OnlySlot i.slot s t ∧
      t.draws = s.draws := by
  rw [← ensureTable_of_faithful hf]
  exact ⟨_, hexec, State.getElem?_setSlot hk _, rfl, exec_onlySlot hexec, rfl⟩

/-- Settles O26: BUILD_TABLE is a use of the table that answers 0. -/
theorem buildTableBuildsTable : Obligations.BuildTableBuildsTable := by
  intro s k sl hk hv hf
  obtain ⟨-, -, hexec, -⟩ := usesTable_exec s k sl hk hv
  exact exec_of_usingTable (i := .buildTable k) hexec hk hf

/-- Settles O27: READ_TABLE is a use of the table that answers an entry of it. -/
theorem readTableAnswersEntry : Obligations.ReadTableAnswersEntry := by
  intro s k sl index hk hv hf
  obtain ⟨-, -, -, hexec⟩ := usesTable_exec s k sl hk hv
  have hentry : tRead (ensureTable sl) index = (build sl.cfg.poly sl.cfg.refin)[index.toNat]'index.isLt := by
    rw [tRead_of_table _ _ _ (ensureTable_table sl hf), build_get]
  rw [← hentry]
  exact exec_of_usingTable (i := .readTable k index) (hexec index) hk hf

/-- Settles O39: each build is faithful to its own configuration, of which it reads POLY and REFIN alone. -/
theorem tableDependsOnPolyAndRefin : Obligations.TableDependsOnPolyAndRefin := by
  intro s s' k k' sl sl' hk hk' hv hv' hf hf' hpoly hrefin
  obtain ⟨t, hexec, hbuilt, -⟩ := exec_buildTable_valid hk hv
  obtain ⟨t', hexec', hbuilt', -⟩ := exec_buildTable_valid hk' hv'
  refine ⟨t, t', _, _, hexec, hexec', hbuilt, hbuilt', ?_⟩
  rw [ensureTable_table sl hf, ensureTable_table sl' hf', hpoly, hrefin]

/-! #### Reversal and table entries (R130 to R135) -/

/-- Reversing a byte twice is nothing (R130). -/
@[simp] theorem rev8_rev8 (x : Byte) : rev8 (rev8 x) = x := by
  apply BitVec.eq_of_getLsbD_eq
  intro i hi
  rw [getLsbD_rev8 _ i hi, getLsbD_rev8 _ _ (by omega), Nat.sub_sub_self (by omega)]

/-- Settles O36: the bits of a reversal, read from the other end, and the two involutions. -/
theorem reversalsSwapBits : Obligations.ReversalsSwapBits := by
  refine ⟨fun x j hj => ?_, rev8_rev8, fun x j hj => ?_, rev16_rev16, by decide, by decide⟩
  · rw [getLsbD_rev8 x _ (by omega), Nat.sub_sub_self (by omega)]
  · rw [getLsbD_rev16 x _ (by omega), Nat.sub_sub_self (by omega)]

/-- Settles O37: the entries are those of the two builds, whose eight shifts are one shift iterated. -/
theorem tableEntriesFollowBuilds : Obligations.TableEntriesFollowBuilds := by
  have hstep8 : ∀ r poly : Word, step8 r poly = (shiftStep poly)^[8] r := fun r poly => by
    rw [step8, shiftSteps_eq_iterate]
  refine ⟨fun poly i => ⟨?_, ?_⟩, hstep8, ?_, ?_⟩
  · exact (build_get poly false i).trans (hstep8 (seed i) poly)
  · exact (build_get poly true i).trans (congrArg rev16 (hstep8 (seed (rev8 i)) poly))
  · exact (build_get 0x1021 false 1).trans ((tableEntry_false _ _).trans (normalEntry_one 0x1021))
  · exact (build_get 0x1021 true 1).trans (by decide +kernel)

end Sys2Proof.Machine

/-! ### Proofs about CHECKSUM and UPDATE: the feed loop and the output transform, the two commands on a live slot, a
message in parts, the residue of an appended CRC -/

namespace Sys2Proof.Machine

/-! #### The feed loop and the output transform (R160 to R162) -/

/-- Feeding nothing leaves the register as it was: with REFIN = 1 the two reversals cancel (R160). -/
@[simp] theorem feed_nil (sl : Slot) (r : Word) : feed sl r [] = r := by
  cases h : sl.cfg.refin with
  | false => simp [feed, h]
  | true => simp [feed, h]

/-- Feeding two byte lists one after the other is feeding them joined: the reversals between the two feeds cancel
(R160, R167). -/
theorem feed_append (sl : Slot) (r : Word) (a b : List Byte) : feed sl r (a ++ b) = feed sl (feed sl r a) b := by
  cases h : sl.cfg.refin with
  | false => simp [feed, h]
  | true => simp [feed, h]

/-- Settles O43: a list is its first byte joined to the rest, and feeding one byte is one turn of the loop. -/
theorem feedFollowsLoop : Obligations.FeedFollowsLoop := by
  intro sl r
  refine ⟨feed_nil sl r, fun b data hrefin => ?_, fun b data hrefin => ?_⟩
  · have hbyte : feed sl r [b] = feedNormal sl r b := by simp [feed, hrefin]
    have hrest := feed_append sl r [b] data
    rwa [hbyte] at hrest
  · have hbyte : feed sl r [b] = rev16 (feedReflected sl (rev16 r) b) := by simp [feed, hrefin]
    have hrest := feed_append sl r [b] data
    rwa [hbyte] at hrest

/-- The inverse transform undoes the output transform (R162). -/
@[simp] theorem unOutX_outX (cfg : Configuration) (v : Word) : unOutX cfg (outX cfg v) = v := by
  cases h : cfg.refout with
  | false => simp [outX, unOutX, h]
  | true => simp [outX, unOutX, h]

/-- The output transform undoes its inverse (R162). -/
@[simp] theorem outX_unOutX (cfg : Configuration) (c : Word) : outX cfg (unOutX cfg c) = c := by
  cases h : cfg.refout with
  | false => simp [outX, unOutX, h]
  | true => simp [outX, unOutX, h]

/-- Settles O44: the two transforms for each REFOUT, and that each undoes the other. -/
theorem outputTransformsInverse : Obligations.OutputTransformsInverse := by
  intro cfg v
  refine ⟨fun hrefout => ?_, fun hrefout => ?_, unOutX_outX cfg v, outX_unOutX cfg v⟩
  · simp [outX, unOutX, hrefout]
  · simp [outX, unOutX, hrefout]

/-! #### CHECKSUM and UPDATE on a live slot (R164, R165) -/

/-- A command that runs the pipeline on a slot leaves its table built, answers OK with the CRC, and touches nothing else
(R137, R160, R161). -/
theorem exec_of_runPipeline {i : Instr} {s : State} {sl : Slot} {start : Configuration → Word} {data : List Byte}
    (hexec : exec i s = usingTable i.slot sl s (runPipeline start data)) (hk : s.slots[i.slot.toNat]? = some sl) :
    ∃ t, exec i s = .next t ∧ t.slots[i.slot.toNat]? = some (ensureTable sl) ∧
      t.response = some
        { status := .ok, data := outX sl.cfg (feed (ensureTable sl) (start sl.cfg) data), out := [] } ∧
      OnlySlot i.slot s t ∧ t.draws = s.draws :=
  ⟨_, hexec, State.getElem?_setSlot hk _, by rw [State.respond_response, runPipeline, ensureTable_cfg],
    exec_onlySlot hexec, rfl⟩

/-- CHECKSUM on a live slot runs the pipeline from INIT (R164). -/
theorem exec_checksum_valid {s : State} {k : BitVec 4} {sl : Slot} {data : List Byte}
    (hk : s.slots[k.toNat]? = some sl) (hv : sl.valid = true) (hlen : tooLong s.maxPayload data = false) :
    ∃ t, exec (.checksum k data) s = .next t ∧ t.slots[k.toNat]? = some (ensureTable sl) ∧
      t.response = some { status := .ok, data := outX sl.cfg (feed (ensureTable sl) sl.cfg.init data), out := [] } ∧
      OnlySlot k s t ∧ t.draws = s.draws := by
  obtain ⟨hexec, -⟩ := usesTable_exec s k sl hk hv
  exact exec_of_runPipeline (i := .checksum k data) (hexec data hlen) hk

/-- UPDATE on a live slot runs the pipeline from the undone previous CRC (R165). -/
theorem exec_update_valid {s : State} {k : BitVec 4} {sl : Slot} {data : List Byte} (prev : Word)
    (hk : s.slots[k.toNat]? = some sl) (hv : sl.valid = true) (hlen : tooLong s.maxPayload data = false) :
    ∃ t, exec (.update k prev data) s = .next t ∧ t.slots[k.toNat]? = some (ensureTable sl) ∧
      t.response = some
        { status := .ok, data := outX sl.cfg (feed (ensureTable sl) (unOutX sl.cfg prev) data), out := [] } ∧
      OnlySlot k s t ∧ t.draws = s.draws := by
  obtain ⟨-, hexec, -⟩ := usesTable_exec s k sl hk hv
  exact exec_of_runPipeline (i := .update k prev data) (start := fun cfg => unOutX cfg prev)
    (hexec prev data hlen) hk

/-- Settles O23: on a faithful slot the lazy build leaves the configuration's table, BUILT. -/
theorem checksumAnswersCrc : Obligations.ChecksumAnswersCrc := by
  intro s k sl data hk hv hf hlen
  obtain ⟨t, hexec, hslot, hframe⟩ := exec_checksum_valid hk hv hlen
  exact ⟨t, _, hexec, hslot, ensureTable_of_faithful hf, hframe⟩

/-- Settles O24: as for CHECKSUM, with the undone previous CRC for INIT. -/
theorem updateAnswersCrc : Obligations.UpdateAnswersCrc := by
  intro s k sl prev data hk hv hf hlen
  obtain ⟨t, hexec, hslot, hframe⟩ := exec_update_valid prev hk hv hlen
  exact ⟨t, _, hexec, hslot, ensureTable_of_faithful hf, hframe⟩

/-! #### A message in parts (R167) -/

/-- The length check lets through what is no longer than what it lets through (R224). -/
theorem tooLong_of_length_le {maxPayload : Option Nat} {data data' : List Byte} (hle : data.length ≤ data'.length)
    (h : tooLong maxPayload data' = false) : tooLong maxPayload data = false := by
  cases maxPayload with
  | none => rfl
  | some bound =>
    simp only [tooLong, decide_eq_false_iff_not] at h ⊢
    omega

/-- Settles O46: undoing the output transform gives back the register in which CHECKSUM ended, and the second feed goes
on from there; feeding nothing leaves the two transforms, which cancel. -/
theorem updateComposesWithChecksum : Obligations.UpdateComposesWithChecksum := by
  intro s k sl a b hk hv _ hlen
  constructor
  · have hlena : tooLong s.maxPayload a = false := tooLong_of_length_le (by simp) hlen
    have hlenb : tooLong s.maxPayload b = false := tooLong_of_length_le (by simp) hlen
    obtain ⟨t, hpart, hslot, hpartResp, honly, -⟩ := exec_checksum_valid hk hv hlena
    obtain ⟨x, hwhole, -, hwholeResp, -⟩ := exec_checksum_valid hk hv hlen
    rw [← honly.maxPayload_eq] at hlenb
    obtain ⟨u, hupdate, -, hupdateResp, -⟩ := exec_update_valid _ hslot ((ensureTable_valid sl).trans hv) hlenb
    rw [ensureTable_ensureTable, ensureTable_cfg, unOutX_outX, ← feed_append] at hupdateResp
    exact ⟨_, _, t, u, x, hpart, hpartResp, hupdate, hupdateResp, hwhole, hwholeResp⟩
  · intro c
    obtain ⟨t, hexec, -, hresp, -⟩ := exec_update_valid c hk hv (tooLong_nil _)
    rw [feed_nil, outX_unOutX] at hresp
    exact ⟨t, hexec, hresp⟩

/-! #### The residue of an appended CRC (R168) -/

/-- The two kinds of configuration of R168: the byte order is the one in which the feed takes a CRC's bytes. -/
def OrderMatchesFeed (cfg : Configuration) : Prop :=
  (cfg.refin = false ∧ cfg.refout = false ∧ cfg.bord = .big) ∨
    (cfg.refin = true ∧ cfg.refout = true ∧ cfg.bord = .little)

/-- The constant of R168: what CRC 0 leaves in the register, divided for two bytes, transformed for output. -/
def residue (cfg : Configuration) : Word := outX cfg (step8 (step8 (unOutX cfg 0) cfg.poly) cfg.poly)

/-- Without XOROUT the register of CRC 0 is 0, and stays 0 (R168 (b)). -/
theorem residue_eq_zero {cfg : Configuration} (h : cfg.xorout = 0) : residue cfg = 0 := by
  have hrev : rev16 0#16 = 0#16 := by decide
  have hstep : step8 0#16 cfg.poly = 0#16 := tableEntry_zero cfg.poly false
  simp [residue, outX, unOutX, h, hrev, hstep]

/-- Taking in the two bytes of a word, high byte first, is sixteen shifts of the register with the whole word in it: the
low byte may enter eight shifts early, for none of these reaches it (R132, R160). -/
theorem serialByte_high_low (poly r w : Word) :
    serialByte poly (serialByte poly r (highByte w)) (lowByte w) = step8 (step8 (r ^^^ w) poly) poly := by
  have hlow : seed (lowByte w) = step8 ((lowByte w).zeroExtend 16) poly := by
    simpa [seed, step8] using (shiftSteps_low poly (lowByte w) 8 0 (by omega)).symm
  have hword : serialByte poly r (highByte w) ^^^ seed (lowByte w) = step8 (r ^^^ w) poly := by
    rw [hlow, serialByte, step8, step8, ← shiftSteps_xor, BitVec.xor_assoc, seed_highByte_xor_lowByte, step8]
  rw [serialByte, hword]

/-- The low byte is the high byte of the reversed word, reversed (R130, R131). -/
theorem rev8_highByte (v : Word) : rev8 (highByte v) = lowByte (rev16 v) := by
  rw [← rev8_lowByte_rev16, rev8_rev8]

/-- The high byte of the reversed word is the low byte, reversed (R130, R131). -/
theorem rev8_lowByte (v : Word) : rev8 (lowByte v) = highByte (rev16 v) := by
  rw [← rev8_lowByte_rev16, rev16_rev16]

/-- Feeding a CRC's own bytes into its register cancels the CRC: only XOROUT is left of it (R168). -/
theorem feed_own_bytes {sl : Slot} (htable : sl.table = build sl.cfg.poly sl.cfg.refin)
    (hmatch : OrderMatchesFeed sl.cfg) (v : Word) :
    feed sl (unOutX sl.cfg v) (serialize v sl.cfg.bord) = step8 (step8 (unOutX sl.cfg 0) sl.cfg.poly) sl.cfg.poly := by
  have hcancel : v ^^^ sl.cfg.xorout ^^^ v = sl.cfg.xorout := by
    rw [BitVec.xor_comm v, BitVec.xor_assoc, BitVec.xor_self, BitVec.xor_zero]
  rw [feed_eq_foldl_serialByte htable]
  rcases hmatch with ⟨hrefin, hrefout, hbord⟩ | ⟨hrefin, hrefout, hbord⟩
  · simp [hrefin, hrefout, hbord, serialize, unOutX, serialByte_high_low, hcancel]
  · simp [hrefin, hrefout, hbord, serialize, unOutX, rev8_lowByte, rev8_highByte, serialByte_high_low, ← rev16_xor,
      hcancel]

/-- TO_BYTES on a live slot answers the bytes of the value and changes nothing (R201). -/
theorem exec_toBytes_valid {s : State} {k : BitVec 4} {sl : Slot} (hk : s.slots[k.toNat]? = some sl)
    (hv : sl.valid = true) (value : Word) :
    exec (.toBytes k value) s = .next (s.respond .ok 0 (serialize value sl.cfg.bord)) := by
  rw [exec, execToBytes, onSlot_some hk, onLive_valid hv]

/-- UPDATE of any CRC with its own bytes answers the residue (R168). -/
theorem exec_update_own_bytes {s : State} {k : BitVec 4} {sl : Slot} (hk : s.slots[k.toNat]? = some sl)
    (hv : sl.valid = true) (hf : sl.faithful) (hmatch : OrderMatchesFeed sl.cfg)
    (hlen : tooLong s.maxPayload [0, 0] = false) (v : Word) :
    ∃ t, exec (.update k v (serialize v sl.cfg.bord)) s = .next t ∧
      t.response = some { status := .ok, data := residue sl.cfg, out := [] } := by
  have htwo : (serialize v sl.cfg.bord).length ≤ [(0 : Byte), 0].length := by
    rcases length_serialize v sl.cfg.bord with h | h <;> simp [h]
  obtain ⟨t, hexec, -, hresp, -⟩ := exec_update_valid v hk hv (tooLong_of_length_le htwo hlen)
  have hfeed := feed_own_bytes (sl := ensureTable sl) (ensureTable_faithful hf (ensureTable_tstate sl))
    (by rwa [ensureTable_cfg]) v
  rw [ensureTable_cfg] at hfeed
  exact ⟨t, hexec, by rw [hresp, hfeed, residue]⟩

/-- Settles O47: CHECKSUM keeps the slot live, faithful and configured as it was, TO_BYTES changes nothing, and UPDATE
answers the residue whatever CRC the message had. -/
theorem appendedCrcGivesConstant : Obligations.AppendedCrcGivesConstant := by
  intro cfg hmatch
  refine ⟨residue cfg, residue_eq_zero, fun s k sl m hk hv hf hcfg hlen hlenTwo => ?_⟩
  obtain ⟨t, hchecksum, hslot, hresp, honly, -⟩ := exec_checksum_valid hk hv hlen
  have hlive : (ensureTable sl).valid = true := (ensureTable_valid sl).trans hv
  obtain rfl : (ensureTable sl).cfg = cfg := (ensureTable_cfg sl).trans hcfg
  rw [← honly.maxPayload_eq] at hlenTwo
  obtain ⟨w, hupdate, hresidue⟩ := exec_update_own_bytes hslot hlive (ensureTable_faithful hf) hmatch hlenTwo _
  exact ⟨_, _, t, _, w, hchecksum, hresp, exec_toBytes_valid hslot hlive _, rfl,
    (exec_respond _ _ _ _ _).trans hupdate, hresidue⟩

end Sys2Proof.Machine

/-! ### Proofs of the serializer: the bytes of TO_BYTES, and what they give back -/

namespace Sys2Proof.Machine

/-- Settles O25: TO_BYTES answers `serialize`, which has one case per byte order. -/
theorem toBytesAnswersBytes : Obligations.ToBytesAnswersBytes := by
  intro s k sl value hk hv
  rw [exec_toBytes_valid hk hv]
  cases sl.cfg.bord with
  | none => rfl
  | big => rfl
  | little => rfl

/-- The serializer gives no bytes exactly without a byte order (R203). -/
theorem serialize_eq_nil_iff (v : Word) (bord : ByteOrder) : serialize v bord = [] ↔ bord = .none := by
  cases bord <;> simp [serialize]

/-- Settles O49: in either byte order the two bytes are the value's high and low byte, which make up the value. -/
theorem serializationRoundTrips : Obligations.SerializationRoundTrips := by
  intro s k sl value hk hv
  refine ⟨_, _, exec_toBytes_valid hk hv value, rfl, fun hbig => ?_, fun hlittle => ?_,
    serialize_eq_nil_iff value _, (length_serialize_eq_two_iff value _).mpr⟩
  · exact ⟨highByte value, lowByte value, by rw [hbig, serialize], word16_high_low value⟩
  · exact ⟨lowByte value, highByte value, by rw [hlittle, serialize], word16_high_low value⟩

end Sys2Proof.Machine

/-! ### Proofs about errors and progress: the status of every request, steps that answer, runs that answer everything -/

namespace Sys2Proof.Machine

/-! #### A command after the decode check (R223, R224, R226) -/

/-- A command that begins no engine makes the three checks of R225 in their order, and then answers OK (R226). -/
theorem exec_of_not_creates {i : Instr} (h : i.creates = false) (s : State) :
    ∃ body : Slot → Result, (∀ sl, ∃ u d o, body sl = .next (State.respond u .ok d o)) ∧
      exec i s = onSlot i.slot s fun sl => withinBound i.data s (onLive sl s (body sl)) := by
  cases i with
  | construct | preset => simp [Instr.creates] at h
  | checksum k data => exact ⟨_, fun sl => ⟨_, _, _, rfl⟩, rfl⟩
  | update k prev data => exact ⟨_, fun sl => ⟨_, _, _, rfl⟩, rfl⟩
  | toBytes k value =>
    exact ⟨fun sl => .next (s.respond .ok 0 (serialize value sl.cfg.bord)), fun sl => ⟨_, _, _, rfl⟩,
      by simp only [Instr.data, withinBound_nil]; rfl⟩
  | buildTable k =>
    exact ⟨fun sl => usingTable k sl s fun _ => 0, fun sl => ⟨_, _, _, rfl⟩,
      by simp only [Instr.data, withinBound_nil]; rfl⟩
  | readTable k index =>
    exact ⟨fun sl => usingTable k sl s fun built => tRead built index, fun sl => ⟨_, _, _, rfl⟩,
      by simp only [Instr.data, withinBound_nil]; rfl⟩
  | release k =>
    exact ⟨fun _ => .next (State.respond { s.setSlot k (Slot.ended s.draws) with draws := s.draws + 1 } .ok 0 []),
      fun sl => ⟨_, _, _, rfl⟩, by simp only [Instr.data, withinBound_nil]; rfl⟩

/-- CONSTRUCT and PRESET carry no data that a bound limits (R224). -/
theorem data_of_creates {i : Instr} (h : i.creates = true) : i.data = [] := by
  cases i with
  | construct | preset => rfl
  | _ => simp [Instr.creates] at h

section ExecChecks

variable {i : Instr} {s : State} {sl : Slot} (hk : s.slots[i.slot.toNat]? = some sl)
include hk

/-- Data above the bound are answered ERR_LENGTH, whatever the slot holds (R224, R225). -/
theorem exec_tooLong (hlong : tooLong s.maxPayload i.data = true) : exec i s = raise .errLength s := by
  have hc : i.creates = false := by
    by_contra hc
    simp [data_of_creates (Bool.eq_true_of_not_eq_false hc)] at hlong
  obtain ⟨body, -, hexec⟩ := exec_of_not_creates hc s
  rw [hexec, onSlot_some hk, withinBound_long hlong]

/-- A command that begins no engine is answered ERR_NO_INSTANCE on an empty slot (R223). -/
theorem exec_empty (hshort : tooLong s.maxPayload i.data = false) (hc : i.creates = false) (hv : sl.valid = false) :
    exec i s = raise .errNoInstance s := by
  obtain ⟨body, -, hexec⟩ := exec_of_not_creates hc s
  rw [hexec, onSlot_some hk, withinBound_short hshort, onLive_empty hv]

/-- A command that passes the checks answers OK (R226). -/
theorem exec_passing (hshort : tooLong s.maxPayload i.data = false) (hlive : i.creates = true ∨ sl.valid = true) :
    ∃ u d o, exec i s = .next (State.respond u .ok d o) := by
  cases hc : i.creates with
  | true =>
    obtain ⟨cfg, hexec⟩ := exec_of_creates hc
    exact ⟨_, _, _, (hexec s).trans (beginEngine_some hk cfg)⟩
  | false =>
    obtain ⟨body, hok, hexec⟩ := exec_of_not_creates hc s
    have hv : sl.valid = true := hlive.resolve_left (by simp [hc])
    rw [hexec, onSlot_some hk, withinBound_short hshort, onLive_valid hv]
    exact hok sl

end ExecChecks

/-- A request that decodes names a slot of the block (R72). -/
theorem slot_of_decode {s : State} {r : Request} {i : Instr} (h : decode s.numSlots r = .ok i) :
    ∃ sl, s.slots[i.slot.toNat]? = some sl := by
  rw [(decode_fields h).1]
  exact ⟨_, List.getElem?_eq_getElem (slot_lt_of_decode h)⟩

/-- Settles O33: the decode check comes before the command, and the command's own checks are the length check and then
the VALID check. -/
theorem checksRunInOrder : Obligations.ChecksRunInOrder := by
  intro s r
  refine ⟨perform_of_not_legal, fun i hd hlong => ?_, fun i sl hd hshort hc hk hv => ?_, fun i => perform_of_decode⟩
  · obtain ⟨sl, hk⟩ := slot_of_decode hd
    rw [perform_of_decode hd, exec_tooLong hk hlong]
  · rw [perform_of_decode hd, exec_empty hk hshort hc hv]

/-! #### The status of every request (R221 to R226) -/

/-- A CHECKSUM or UPDATE whose payload exceeds the bound (R224). -/
abbrev Overlong (s : State) (r : Request) : Prop :=
  (opcOf r.cmd = 0x3#4 ∨ opcOf r.cmd = 0x4#4) ∧ tooLong s.maxPayload r.payload = true

/-- A CONSTRUCT or PRESET, or a request whose slot holds an engine (R223). -/
abbrev FindsEngine (s : State) (r : Request) : Prop :=
  opcOf r.cmd = 0x1#4 ∨ opcOf r.cmd = 0x2#4 ∨ ∃ sl, s.slots[(slotOf r.cmd).toNat]? = some sl ∧ sl.valid = true

/-- The status that R225 gives a request: that of the first check that fails, or OK. -/
def verdict (s : State) (r : Request) : Status :=
  if legal s.numSlots r = false then .errIllegal
  else if Overlong s r then .errLength
  else if FindsEngine s r then .ok
  else .errNoInstance

/-- The first check that can fail is the decode check (R222, R225). -/
theorem verdict_eq_errIllegal_iff (s : State) (r : Request) :
    verdict s r = .errIllegal ↔ legal s.numSlots r = false := by
  rw [verdict]
  split_ifs <;> grind

/-- The length check is reached by legal requests (R224, R225). -/
theorem verdict_eq_errLength_iff (s : State) (r : Request) :
    verdict s r = .errLength ↔ legal s.numSlots r = true ∧ Overlong s r := by
  rw [verdict]
  split_ifs <;> grind

/-- The VALID check is reached by legal requests within the bound (R223, R225). -/
theorem verdict_eq_errNoInstance_iff (s : State) (r : Request) :
    verdict s r = .errNoInstance ↔ legal s.numSlots r = true ∧ ¬ Overlong s r ∧ ¬ FindsEngine s r := by
  rw [verdict]
  split_ifs <;> grind

/-- What passes all three checks is answered OK (R226). -/
theorem verdict_eq_ok_iff (s : State) (r : Request) :
    verdict s r = .ok ↔ legal s.numSlots r = true ∧ ¬ Overlong s r ∧ FindsEngine s r := by
  rw [verdict]
  split_ifs <;> grind

/-- CONSTRUCT and PRESET by their opcodes (R76). -/
theorem creates_iff_opcode (i : Instr) : i.creates = true ↔ i.opcode = 0x1#4 ∨ i.opcode = 0x2#4 := by
  cases i <;> simp [Instr.creates, Instr.opcode]

/-- The bound limits the payload of CHECKSUM and UPDATE and of no other command (R224). -/
theorem tooLong_data_iff (maxPayload : Option Nat) (i : Instr) :
    tooLong maxPayload i.data = true ↔
      (i.opcode = 0x3#4 ∨ i.opcode = 0x4#4) ∧ tooLong maxPayload (encode i).payload = true := by
  cases i <;> simp [Instr.data, Instr.opcode, encode]

/-- The length check of a request is that of the command it decodes to (R224). -/
theorem overlong_iff_of_decode {s : State} {r : Request} {i : Instr} (h : decode s.numSlots r = .ok i) :
    Overlong s r ↔ tooLong s.maxPayload i.data = true := by
  rw [tooLong_data_iff, encode_of_decode h, (decode_fields h).2]

/-- The VALID check of a request is that of the command it decodes to (R223). -/
theorem findsEngine_iff_of_decode {s : State} {r : Request} {i : Instr} {sl : Slot}
    (h : decode s.numSlots r = .ok i) (hk : s.slots[i.slot.toNat]? = some sl) :
    FindsEngine s r ↔ i.creates = true ∨ sl.valid = true := by
  obtain ⟨hslot, hopc⟩ := decode_fields h
  simp [FindsEngine, creates_iff_opcode, ← hslot, ← hopc, hk, or_assoc]

/-- Every request is answered with its verdict, and when that is an error, from the state itself and without DATA or
bytes (R221, R225). -/
theorem perform_verdict (r : Request) (s : State) :
    ∃ u d o, perform r s = .next (State.respond u (verdict s r) d o) ∧
      (verdict s r ≠ .ok → u = s ∧ d = 0 ∧ o = []) := by
  cases hlegal : legal s.numSlots r with
  | false =>
    rw [perform_of_not_legal hlegal, (verdict_eq_errIllegal_iff s r).mpr hlegal]
    exact ⟨s, 0, [], rfl, fun _ => ⟨rfl, rfl, rfl⟩⟩
  | true =>
    obtain ⟨i, hd⟩ := (decodes_iff_legal s.numSlots r).mpr hlegal
    obtain ⟨sl, hk⟩ := slot_of_decode hd
    have hover := overlong_iff_of_decode hd
    have hfinds := findsEngine_iff_of_decode hd hk
    rw [perform_of_decode hd]
    by_cases hlong : Overlong s r
    · rw [exec_tooLong hk (hover.mp hlong), (verdict_eq_errLength_iff s r).mpr ⟨hlegal, hlong⟩]
      exact ⟨s, 0, [], rfl, fun _ => ⟨rfl, rfl, rfl⟩⟩
    · have hshort : tooLong s.maxPayload i.data = false := Bool.eq_false_of_not_eq_true (mt hover.mpr hlong)
      by_cases hfind : FindsEngine s r
      · rw [(verdict_eq_ok_iff s r).mpr ⟨hlegal, hlong, hfind⟩]
        obtain ⟨u, d, o, hexec⟩ := exec_passing hk hshort (hfinds.mp hfind)
        exact ⟨u, d, o, hexec, fun h => absurd rfl h⟩
      · obtain ⟨hc, hv⟩ := not_or.mp (mt hfinds.mpr hfind)
        rw [exec_empty hk hshort (Bool.eq_false_of_not_eq_true hc) (Bool.eq_false_of_not_eq_true hv),
          (verdict_eq_errNoInstance_iff s r).mpr ⟨hlegal, hlong, hfind⟩]
        exact ⟨s, 0, [], rfl, fun _ => ⟨rfl, rfl, rfl⟩⟩

/-- A status is reported exactly when it is the verdict (R220, R225). -/
theorem perform_status_iff (s : State) (r : Request) (st : Status) :
    (∃ t resp, perform r s = .next t ∧ t.response = some resp ∧ resp.status = st) ↔ verdict s r = st := by
  obtain ⟨u, d, o, hp, -⟩ := perform_verdict r s
  rw [hp]
  constructor
  · rintro ⟨t, resp, ht, hresp, hst⟩
    cases ht
    cases hresp
    exact hst
  · intro h
    exact ⟨_, _, rfl, rfl, h⟩

/-- Settles O28: ERR_ILLEGAL is the verdict on what fails the decode check. -/
theorem illegalExactlyWhenNotLegal : Obligations.IllegalExactlyWhenNotLegal := fun s r =>
  (perform_status_iff s r .errIllegal).trans (verdict_eq_errIllegal_iff s r)

/-- A legal request finds no engine exactly when it is no CONSTRUCT or PRESET and its slot is empty (R223). -/
theorem not_findsEngine_iff {s : State} {r : Request} (hlegal : legal s.numSlots r = true) :
    ¬ FindsEngine s r ↔ opcOf r.cmd ≠ 0x1#4 ∧ opcOf r.cmd ≠ 0x2#4 ∧
      ∃ sl, s.slots[(slotOf r.cmd).toNat]? = some sl ∧ sl.valid = false := by
  obtain ⟨i, hd⟩ := (decodes_iff_legal s.numSlots r).mpr hlegal
  obtain ⟨sl, hk⟩ := slot_of_decode hd
  rw [(decode_fields hd).1] at hk
  simp [FindsEngine, hk]

/-- Settles O29: ERR_NO_INSTANCE is the verdict on the requests that pass the first two checks and find no engine. -/
theorem noInstanceExactlyWhenEmpty : Obligations.NoInstanceExactlyWhenEmpty := by
  intro s r
  rw [perform_status_iff, verdict_eq_errNoInstance_iff]
  refine and_congr_right fun hlegal => ?_
  rw [not_findsEngine_iff hlegal]
  tauto

/-- The payload is too long exactly when there is a bound that it exceeds (R224). -/
theorem tooLong_iff (maxPayload : Option Nat) (data : List Byte) :
    tooLong maxPayload data = true ↔ ∃ bound, maxPayload = some bound ∧ bound < data.length := by
  cases maxPayload <;> simp [tooLong]

/-- Settles O30: ERR_LENGTH is the verdict on what exceeds a bound, and without a bound nothing does. -/
theorem lengthErrorExactlyAboveBound : Obligations.LengthErrorExactlyAboveBound := by
  constructor
  · intro s r
    rw [perform_status_iff, verdict_eq_errLength_iff, Overlong, tooLong_iff]
  · intro s t r resp hmax ht hresp hst
    have hlength := (perform_status_iff s r .errLength).mp ⟨t, resp, ht, hresp, hst⟩
    obtain ⟨-, -, hlong⟩ := (verdict_eq_errLength_iff s r).mp hlength
    simp [hmax, tooLong] at hlong

/-- Settles O31: the verdict on a request that passes the checks is OK. -/
theorem passingRequestsAnswerOk : Obligations.PassingRequestsAnswerOk := by
  intro s r hlegal hshort hfind
  exact (perform_status_iff s r .ok).mpr ((verdict_eq_ok_iff s r).mpr ⟨hlegal, hshort, hfind⟩)

/-- Settles O32: with an error for its verdict a request is answered from the state itself. -/
theorem errorResponsesChangeNothing : Obligations.ErrorResponsesChangeNothing := by
  intro s t r resp ht hresp hst
  obtain ⟨u, d, o, hp, herror⟩ := perform_verdict r s
  cases hp.symm.trans ht
  cases hresp
  obtain ⟨rfl, rfl, rfl⟩ := herror hst
  exact ⟨rfl, rfl, rfl⟩

/-! #### Steps that answer, and runs of them (R231, R232, R237) -/

/-- Settles O9: a request's effect leaves the requesters' side alone, so the step changes it by the answer only. -/
theorem stepAnswersChosenRequester : Obligations.StepAnswersChosenRequester := by
  intro s turn h
  obtain ⟨k, u, st, d, o, hu, hp⟩ := perform_effect turn.request (s.takeTurn turn)
  obtain ⟨-, hreq, -, -, -⟩ := hu.frame
  refine ⟨_, _, hp, rfl, ?_⟩
  rw [step_chosen h, hp, deliver, State.route, State.respond_response, State.respond_requesters, hreq,
    State.takeTurn_requesters]

/-- Settles O10: without a pending request nothing is chosen. -/
theorem idleBlockHoldsState : Obligations.IdleBlockHoldsState := by
  intro s h
  exact step_idle (s.choose_eq_none_iff.mpr h)

/-- Settles O15, by induction on the number of steps: a step answers a next state and keeps the invariant. -/
theorem runsStaySafe : Obligations.RunsStaySafe := by
  intro n
  induction n with
  | zero =>
    intro s hs
    exact ⟨s, run_zero s, hs⟩
  | succ n ih =>
    intro s hs
    obtain ⟨t, hstep⟩ := step_next s
    obtain ⟨u, hrun, hu⟩ := ih t (stepKeepsInvariant s t hs hstep)
    exact ⟨u, (run_succ n hstep).trans hrun, hu⟩

/-- A sequence without a pending request has no oldest one. -/
theorem oldestPending_eq_none_iff (seq : List Issued) : oldestPending seq = none ↔ pendingIn seq = 0 := by
  induction seq with
  | nil => simp [oldestPending, pendingIn]
  | cons e rest ih =>
    rw [pendingIn, List.countP_cons, ← pendingIn, oldestPending]
    split <;> simp [*]

/-- Answering the oldest pending request leaves one fewer (R232). -/
theorem pendingIn_answerOldest (resp : Response) {seq : List Issued} (h : oldestPending seq ≠ none) :
    pendingIn (answerOldest resp seq) + 1 = pendingIn seq := by
  induction seq with
  | nil => simp [oldestPending] at h
  | cons e rest ih =>
    rw [oldestPending] at h
    rw [answerOldest]
    split at h
    · simp [pendingIn, *]
    · have hrest := ih h
      simp only [pendingIn, List.countP_cons] at hrest ⊢
      simp [*]

/-- Where `f` takes one from the weight of an entry, modifying the entry takes one from the sum of the weights. -/
theorem sum_map_modify {α : Type} {f : α → α} {weight : α → Nat} {l : List α} {q : Nat} {a : α}
    (ha : l[q]? = some a) (hf : weight (f a) + 1 = weight a) :
    ((l.modify q f).map weight).sum + 1 = (l.map weight).sum := by
  obtain ⟨hq, rfl⟩ := List.getElem?_eq_some_iff.mp ha
  conv_rhs => rw [← List.take_append_drop q l, List.drop_eq_getElem_cons hq]
  rw [List.modify_eq_take_cons_drop hq]
  simp only [List.map_append, List.map_cons, List.sum_append, List.sum_cons]
  omega

/-- Answering in a sequence changes none of the issued requests (R36). -/
theorem map_requests_modify_answerOldest (l : List (List Issued)) (q : Nat) (resp : Response) :
    (l.modify q (answerOldest resp)).map (fun seq => seq.map fun e => e.request) =
      l.map fun seq => seq.map fun e => e.request := by
  refine List.ext_getElem (by simp) fun j _ _ => ?_
  simp only [List.getElem_map, List.getElem_modify]
  split
  · exact answerOldest_requests resp _
  · rfl

/-- While a request is pending, something is chosen (R231). -/
theorem State.choose_of_pendingCount {s : State} (h : s.pendingCount ≠ 0) : ∃ turn, s.choose = some turn := by
  refine Option.ne_none_iff_exists'.mp fun hidle => h ?_
  rw [State.choose_eq_none_iff] at hidle
  refine List.sum_eq_zero fun n hn => ?_
  obtain ⟨seq, hseq, rfl⟩ := List.mem_map.mp hn
  obtain ⟨q, hq⟩ := List.mem_iff_getElem?.mp hseq
  have hnone := hidle q
  rw [State.pendingOf, hq] at hnone
  exact (oldestPending_eq_none_iff seq).mp hnone

/-- While a request is pending, a step answers one, and keeps the issued requests (R231, R232). -/
theorem step_progress {s : State} (h : s.pendingCount ≠ 0) :
    ∃ t, step s = .next t ∧ t.pendingCount + 1 = s.pendingCount ∧ t.issuedRequests = s.issuedRequests := by
  obtain ⟨turn, hturn⟩ := State.choose_of_pendingCount h
  obtain ⟨u, resp, -, -, hstep⟩ := stepAnswersChosenRequester s turn hturn
  obtain ⟨seq, hseq, holdest⟩ := State.pendingOf_some (State.choose_some hturn)
  refine ⟨_, hstep, ?_, map_requests_modify_answerOldest s.requesters turn.requester resp⟩
  exact sum_map_modify hseq (pendingIn_answerOldest resp (by simp [holdest]))

/-- Settles O11, by induction on the number of pending requests: each step answers one. -/
theorem pendingRequestsAllAnswered : Obligations.PendingRequestsAllAnswered := by
  intro s
  induction hn : s.pendingCount generalizing s with
  | zero => exact ⟨s, run_zero s, hn, rfl⟩
  | succ n ih =>
    obtain ⟨t, hstep, hcount, hissued⟩ := step_progress (s := s) (by omega)
    obtain ⟨u, hrun, hnone, hsame⟩ := ih t (by omega)
    exact ⟨u, (run_succ n hstep).trans hrun, hnone, hsame.trans hissued⟩

end Sys2Proof.Machine

/-! ### Proofs about reset and the lifecycle: what the reset event leaves, requests after reset, the row of a command in
the lifecycle table -/

namespace Sys2Proof.Machine

/-! #### Reset (R260 to R262) -/

/-- Settles O17: an ended slot is empty and UNBUILT, and the reset event changes the content of slots and issue
sequences but not their number. -/
theorem resetEventEmptiesBlock : Obligations.ResetEventEmptiesBlock := by
  intro s
  refine ⟨fun sl hsl => ?_, fun seq => State.mem_resetEvent_requesters, rfl, List.length_mapIdx, List.length_map _,
    rfl⟩
  obtain ⟨d, rfl⟩ := State.mem_resetEvent_slots hsl
  exact ⟨rfl, rfl⟩

/-- The block after reset has as many slots as its parameters say (R7). -/
@[simp] theorem State.numSlots_resetOf (c : Config) : (State.resetOf c).numSlots = c.numSlots :=
  List.length_replicate

/-- After reset no slot holds an engine (R37, R260). -/
theorem State.valid_of_resetOf {c : Config} {j : Nat} {sl : Slot} (h : (State.resetOf c).slots[j]? = some sl) :
    sl.valid = false := by
  rw [List.eq_of_mem_replicate (List.mem_of_getElem? h)]
  rfl

/-- A request whose verdict is an error raises it (R221). -/
theorem perform_of_verdict_error {r : Request} {s : State} (h : verdict s r ≠ .ok) :
    perform r s = raise (verdict s r) s := by
  obtain ⟨u, d, o, hp, herror⟩ := perform_verdict r s
  obtain ⟨rfl, rfl, rfl⟩ := herror h
  exact hp

/-- Settles O18: after reset such a request finds no engine, so ERR_NO_INSTANCE is its verdict. -/
theorem onlyCreationSucceedsAfterReset : Obligations.OnlyCreationSucceedsAfterReset := by
  intro c r hlegal hconstruct hpreset hshort
  have hfinds : ¬ FindsEngine (State.resetOf c) r := by
    rintro (h | h | ⟨sl, hk, hv⟩)
    · exact hconstruct h
    · exact hpreset h
    · simp [State.valid_of_resetOf hk] at hv
  have hverdict : verdict (State.resetOf c) r = .errNoInstance :=
    (verdict_eq_errNoInstance_iff _ r).mpr ⟨by rwa [State.numSlots_resetOf], hshort, hfinds⟩
  rw [perform_of_verdict_error (by simp [hverdict]), hverdict]
  rfl

/-! #### The lifecycle of a slot (R263) -/

/-- VALID and TSTATE encode the three lifecycle states (R263). -/
theorem lifecycle_encoding (sl : Slot) :
    (sl.lifecycle = .empty ↔ sl.valid = false) ∧
      (sl.lifecycle = .liveUnbuilt ↔ sl.valid = true ∧ sl.tstate = .unbuilt) ∧
      (sl.lifecycle = .liveBuilt ↔ sl.valid = true ∧ sl.tstate = .built) := by
  cases hv : sl.valid with
  | false => simp [Slot.lifecycle, hv]
  | true => cases ht : sl.tstate <;> simp [Slot.lifecycle, hv, ht]

/-- A slot without an engine is EMPTY (R263). -/
theorem lifecycle_eq_empty_iff (sl : Slot) : sl.lifecycle = .empty ↔ sl.valid = false :=
  (lifecycle_encoding sl).1

/-- The lazy build takes a live slot to LIVE-BUILT (R137, R263). -/
theorem lifecycle_ensureTable {sl : Slot} (hv : sl.valid = true) : (ensureTable sl).lifecycle = .liveBuilt := by
  obtain ⟨-, -, hbuilt⟩ := lifecycle_encoding (ensureTable sl)
  exact hbuilt.mpr ⟨(ensureTable_valid sl).trans hv, ensureTable_tstate sl⟩

/-- The result answers OK with slot k in the lifecycle state `l`. -/
def AnswersOkIn (k : BitVec 4) (l : Lifecycle) (o : Result) : Prop :=
  ∃ u d bytes sl, o = .next (State.respond u .ok d bytes) ∧ u.slots[k.toNat]? = some sl ∧ sl.lifecycle = l

section LifecycleRow

variable {k : BitVec 4} {s : State} {sl : Slot} (hk : s.slots[k.toNat]? = some sl)
include hk

/-- A new engine is LIVE-UNBUILT, whatever its slot held (R101, R104). -/
theorem answersOkIn_beginEngine (cfg : Configuration) : AnswersOkIn k .liveUnbuilt (beginEngine k cfg s) :=
  ⟨_, _, _, _, beginEngine_some hk cfg, State.getElem?_setSlot hk _, rfl⟩

/-- The engine whose table a command used is LIVE-BUILT (R138). -/
theorem answersOkIn_usingTable (hv : sl.valid = true) (body : Slot → Word) :
    AnswersOkIn k .liveBuilt (usingTable k sl s body) :=
  ⟨_, _, _, _, rfl, State.getElem?_setSlot hk _, lifecycle_ensureTable hv⟩

end LifecycleRow

/-- A command that passes its checks leaves its slot in the state of its row of the lifecycle table (R226, R263). -/
theorem exec_answersOkIn {i : Instr} {s : State} {sl : Slot} (hk : s.slots[i.slot.toNat]? = some sl)
    (hshort : tooLong s.maxPayload i.data = false) (hlive : i.creates = true ∨ sl.valid = true) :
    AnswersOkIn i.slot (sl.lifecycle.afterOk i) (exec i s) := by
  have hvalid : i.creates = false → sl.valid = true := fun hc => hlive.resolve_left (by simp [hc])
  cases i with
  | construct | preset => exact answersOkIn_beginEngine hk _
  | toBytes k value => exact ⟨_, _, _, sl, exec_toBytes_valid hk (hvalid rfl) value, hk, rfl⟩
  | release k => exact ⟨_, _, _, _, exec_release_valid hk (hvalid rfl), State.getElem?_setSlot hk _, rfl⟩
  | checksum k data =>
    obtain ⟨hexec, -⟩ := usesTable_exec s k sl hk (hvalid rfl)
    exact hexec data hshort ▸ answersOkIn_usingTable hk (hvalid rfl) _
  | update k prev data =>
    obtain ⟨-, hexec, -⟩ := usesTable_exec s k sl hk (hvalid rfl)
    exact hexec prev data hshort ▸ answersOkIn_usingTable hk (hvalid rfl) _
  | buildTable k =>
    obtain ⟨-, -, hexec, -⟩ := usesTable_exec s k sl hk (hvalid rfl)
    exact hexec ▸ answersOkIn_usingTable hk (hvalid rfl) _
  | readTable k index =>
    obtain ⟨-, -, -, hexec⟩ := usesTable_exec s k sl hk (hvalid rfl)
    exact hexec index ▸ answersOkIn_usingTable hk (hvalid rfl) _

/-- Settles O50: data above the bound and an empty slot are the two errors of a command, which leave the slot; any other
command moves it by its row; and an error response changes nothing. -/
theorem lifecycleFollowsTable : Obligations.LifecycleFollowsTable := by
  refine ⟨lifecycle_encoding, fun i s sl hk => ?_, fun s t r resp hperform hresp herror => ?_⟩
  · cases hlong : tooLong s.maxPayload i.data with
    | true =>
      have hc : i.creates ≠ true := fun hc => by simp [data_of_creates hc] at hlong
      exact ⟨_, sl, _, exec_tooLong hk hlong, hk, rfl, nofun, fun _ => rfl, fun h => absurd h hc, nofun, nofun⟩
    | false =>
      by_cases hlive : i.creates = true ∨ sl.valid = true
      · obtain ⟨u, d, o, sl', hexec, hslot, hrow⟩ := exec_answersOkIn hk hlong hlive
        refine ⟨_, sl', _, hexec, hslot, rfl, fun _ => ?_, fun h => absurd rfl h, fun _ => rfl, fun _ _ _ => rfl,
          fun hc _ hempty => ?_⟩
        · cases i <;> exact hrow
        · simp [hc, (lifecycle_eq_empty_iff sl).mp hempty] at hlive
      · obtain ⟨hc, hv⟩ : i.creates = false ∧ sl.valid = false := by simpa using hlive
        have hempty : sl.lifecycle = .empty := (lifecycle_eq_empty_iff sl).mpr hv
        exact ⟨_, sl, _, exec_empty hk hlong hc hv, hk, rfl, nofun, fun _ => rfl, fun h => by simp [hc] at h,
          fun _ _ h => absurd hempty h, fun _ _ _ => ⟨rfl, rfl⟩⟩
  · obtain ⟨-, -, hsame⟩ := errorResponsesChangeNothing s t r resp hperform hresp herror
    exact (congrArg State.slots hsame :)

end Sys2Proof.Machine

/-! ### Proofs about placed requests: a request made the next one (log 9) is the one chosen -/

namespace Sys2Proof.Machine

/-- An inserted request comes before every pending one, after the answered ones. -/
@[simp] theorem oldestPending_insertPending (r : Request) (seq : List Issued) :
    oldestPending (insertPending r seq) = some r := by
  induction seq with
  | nil => rfl
  | cons e rest ih =>
    simp only [insertPending]
    split
    case isTrue => rfl
    case isFalse hanswered => simp [oldestPending, hanswered, ih]

/-- A placed request is requester 0's oldest pending one, also in a state that had no requester. -/
theorem State.pendingOf_placeNext (s : State) (r : Request) : (s.placeNext r).pendingOf 0 = some r := by
  cases h : s.requesters with
  | nil => simp [State.pendingOf, State.placeNext, h, oldestPending]
  | cons seq rest => simp [State.pendingOf, State.placeNext, h]

/-- A placed request is chosen, and its turn leaves the arbitration order and the counter as they were before (log 9). -/
theorem State.choose_placeNext (s : State) (r : Request) :
    (s.placeNext r).choose =
      some { requester := 0, request := r, arbitration := s.arbitration, draws := s.draws } :=
  State.choose_of_named_first (s.placeNext_arbitration r) (s.pendingOf_placeNext r)

/-- Settles O7: the word is placed as its request, and placing writes neither the slots nor the bound. -/
theorem fetchWordPerformedNext : Obligations.FetchWordPerformedNext :=
  fun s nbits w => ⟨s.choose_placeNext _, s.placeNext_slots (tableRequest nbits w), s.placeNext_maxPayload _⟩

end Sys2Proof.Machine
